-- ==== Sys2Proof/Word.lean ====
section
/-! DEFINITION. The two word types of the block (spec/00_scope.md R11). -/

namespace Sys2Proof

/-- R11: a byte is an unsigned integer in 0..255. -/
abbrev Byte := BitVec 8

/-- R11: a u64 is an unsigned integer in 0..2^64-1; `+`, `*` and `^^^` on it are the spec's
`+64`, `*64` and XOR. -/
abbrev Word := BitVec 64

end Sys2Proof
end

