-- ==== Sys2Proof/Config.lean ====
section
/-! DEFINITION. The constants of spec/00_scope.md R9, the parameters R10 leaves open, and the free
values of never-written buffer bytes (spec/93_implementation_defined.md U1). -/

namespace Sys2Proof.Config

/-- R9 `BLOCK_BYTES`: bytes per hash block. -/
abbrev blockBytes : Nat := 8

/-- R9 `INDEX_SCALE`: multiplier of the block index. -/
abbrev indexScale : Word := 1024#64

/-- R9 `HASH_BYTES`: bytes of the hash field in the trailer. -/
abbrev hashBytes : Nat := 8

/-- R9 `FLAG`: the flag byte. -/
abbrev flag : Byte := 0xFF#8

/-- R9 `TRAILER_BYTES` = `HASH_BYTES` + 1. -/
abbrev trailerBytes : Nat := 9

/-- R10: the values `CAP` may take, the naturals with `CAP + 9 < 2^64`: those below 2^64 - 9. -/
abbrev Capacity := Fin 18446744073709551607

/-- R10, D4: `CAP` is OPEN. No value is chosen: `State.reset` carries this constant, and a statement
about every state holds for every value of `CAP` (log entry 3). -/
opaque capacity : Capacity

/-- R56, U6: the bus base address `BASE` is OPEN and used by no rule (log entry 16). -/
opaque base : Nat

/-- The reads of buffer bytes the block performs: the rows of R55 that read inside a command, and the
two host byte reads. -/
inductive Access where
  /-- a block read of the hasher (R102) -/
  | block
  /-- the flag read of `tryDecode` (R124) -/
  | flag
  /-- the trailer hash read of `tryDecode` (R124) -/
  | trailer
  /-- the payload copy of ADD, REMOVE and RESIGN (R162, R164) -/
  | copy
  /-- the host's `RDI` (R61) -/
  | hostInput
  /-- the host's `RDO` (R62) -/
  | hostOutput
  deriving DecidableEq, Repr

/-- U1: the value a read gives for a buffer byte that holds none, "a fresh draw at every read (not one
fixed value per cell)". The first argument is the model's draw counter, the last the address: within
one transaction no access reads an address twice, so no two reads share a value (log entries 1, 2). -/
opaque freeByte : Nat → Access → Nat → Byte

end Sys2Proof.Config
end

