-- ==== Sys2Proof/Syntax.lean ====
section
/-! DEFINITION. The seven commands (spec/30_encoding.md R81). No command has an operand field (R80,
R83): every operand is implicit. -/

namespace Sys2Proof

/-- R81: one constructor per row of the opcode map. -/
inductive Instr where
  /-- HASH (R110) -/
  | hash
  /-- ENCODE (R122) -/
  | encode
  /-- TRYDECODE (R125) -/
  | tryDecode
  /-- CLASSIFY (R143) -/
  | classify
  /-- ADD (R162) -/
  | add
  /-- REMOVE (R164) -/
  | remove
  /-- RESIGN (R166) -/
  | resign
  deriving DecidableEq, Repr

end Sys2Proof
end

