-- ==== Sys2Proof/WellFormed.lean ====
section
/-! DEFINITION. Well-formedness. A command has no register number, immediate or other field (R80,
R83), so an instruction term has nothing to check; what can be ill-formed is a command word. -/

namespace Sys2Proof

/-- R80, R83: no command carries an operand, so every instruction term is well-formed. -/
def Instr.wellFormed : Instr → Bool
  | .hash => true
  | .encode => true
  | .tryDecode => true
  | .classify => true
  | .add => true
  | .remove => true
  | .resign => true

/-- R81, R82: the defined opcodes are 0x01 to 0x07; 0x00 and 0x08 to 0xFF are reserved. -/
def opcodeDefined (op : Byte) : Bool :=
  decide (1 ≤ op.toNat) && decide (op.toNat ≤ 7)

end Sys2Proof
end

