-- ==== Sys2Proof/Decode.lean ====
section
/-! DEFINITION. Decoding and encoding of command words (spec/30_encoding.md R80 to R84). -/

namespace Sys2Proof

/-- One row of the opcode map R81: "A decoder matches all eight bits: `match = opcode`,
`mask = 0xFF`". -/
structure OpcodeRow where
  mask : Byte
  pattern : Byte
  instr : Instr
  deriving DecidableEq, Repr

/-- The opcode map R81, row by row. -/
def opcodeTable : List OpcodeRow :=
  [ ⟨0xFF#8, 0b00000001#8, .hash⟩,
    ⟨0xFF#8, 0b00000010#8, .encode⟩,
    ⟨0xFF#8, 0b00000011#8, .tryDecode⟩,
    ⟨0xFF#8, 0b00000100#8, .classify⟩,
    ⟨0xFF#8, 0b00000101#8, .add⟩,
    ⟨0xFF#8, 0b00000110#8, .remove⟩,
    ⟨0xFF#8, 0b00000111#8, .resign⟩ ]

/-- Why a word is no command. -/
inductive DecodeError where
  /-- R82: the opcode is reserved. -/
  | reservedOpcode (op : Byte)
  deriving DecidableEq, Repr

/-- Whether a command word matches a row of the opcode map. -/
def OpcodeRow.accepts (op : Byte) (row : OpcodeRow) : Bool :=
  op &&& row.mask == row.pattern

/-- R80, R84: a command word is decoded alone, by its eight opcode bits. -/
def decode (op : Byte) : Except DecodeError Instr :=
  match opcodeTable.find? (OpcodeRow.accepts op) with
  | some row => .ok row.instr
  | none => .error (.reservedOpcode op)

/-- R81: the command word of an instruction. -/
def encode : Instr → Byte
  | .hash => 0x01#8
  | .encode => 0x02#8
  | .tryDecode => 0x03#8
  | .classify => 0x04#8
  | .add => 0x05#8
  | .remove => 0x06#8
  | .resign => 0x07#8

/-- The host's opcode-table word of `nbits` bits as the one command word it is (R84: every command
word is 8 bits). DESIGN CHOICE (log entry 19): of a word of another number of bits the low 8 are taken,
zeros above it. -/
def tableOpcode (nbits w : Nat) : Byte :=
  BitVec.ofNat 8 (w % 2 ^ nbits)

/-- What `decode` reads from a word of the opcode table. R84: a command word is 8 bits. DESIGN CHOICE (log
entry 19): a table word of any other number of bits, of which the spec says nothing, is no command. -/
def decodeTableWord (nbits w : Nat) : Option Instr :=
  if nbits = 8 then
    match decode (tableOpcode nbits w) with
    | .ok i => some i
    | .error _ => none
  else none

end Sys2Proof
end

