-- ==== Sys2Proof/Machine/State.lean ====
section
/-! DEFINITION. The state of the block (spec/10_state.md), the host's events and the block's
responses, and the state after reset. -/

namespace Sys2Proof.Machine

/-- The cells of a buffer that hold a value, as (address, byte) pairs. An address that is not listed
holds no value (U1, U2). -/
abbrev Memory := List Host.Cell

/-- The canonical form of a memory: addresses strictly rising. An unlisted address holds no value, so
no entry can equal what an unlisted address holds. -/
abbrev Memory.wf (m : Memory) : Prop := m.Pairwise fun c d => c.1 < d.1

/-- R27, U7: the status of the most recent classification. `STATUS.ST` never holds the code 3. -/
inductive Status where
  | unsigned
  | signed
  | changedData
  deriving DecidableEq, Repr

/-- R181: the four error responses. -/
inductive ErrorCode where
  /-- `E_ILLEGAL_CMD` -/
  | illegalCmd
  /-- `E_LENGTH` -/
  | length
  /-- `E_ADDRESS` -/
  | address
  /-- `E_ACCESS` -/
  | access
  deriving DecidableEq, Repr

/-- R181: what a transaction answers: `OK`, `OK(v)` or `Err(code)`. A value has the width of what was
read (R25, R55; log entry 18): a byte for `STATUS` and the buffers, 64 bits for the other registers. -/
inductive Response where
  | ok
  | okByte (v : Byte)
  | okWord (v : Word)
  | err (code : ErrorCode)
  deriving DecidableEq, Repr

/-- R25: the width of register number `k`. Numbers 8 and above name no register; a write to one
carries 64 bits that nothing reads (log entry 10). -/
def regWidth : Nat → Nat
  | 0 => 8
  | 1 => 8
  | _ => 64

/-- What reaches the block from outside: the five host transactions (R58 to R62; a command is
`WRR 0, op`, R80) and the reset input (R200), which is not a transaction. -/
inductive HostEvent where
  /-- `RDR k` (R58) -/
  | rdr (k : Nat)
  /-- `WRR k, v` (R59): "a transaction on a register carries a value of exactly that register's
  width" (R25) -/
  | wrr (k : Nat) (v : BitVec (regWidth k))
  /-- `WRI a, v` (R60) -/
  | wri (a : Nat) (v : Byte)
  /-- `RDI a` (R61) -/
  | rdi (a : Nat)
  /-- `RDO a` (R62) -/
  | rdo (a : Nat)
  /-- the reset input, asserted between transactions (R200) -/
  | reset
  deriving DecidableEq, Repr

/-- R34: the hidden pipeline registers of the BlockHasher. -/
structure Hasher where
  /-- `ACC`, the running sum -/
  acc : Word
  /-- `IDX`, the index of the block being processed -/
  idx : Word
  /-- `BLK`, the blockValue of that block -/
  blk : Word
  deriving DecidableEq, Repr

/-- The whole state of the block: R20 to R24, R27 to R29, R32 to R34; R35: there is nothing else.
`CMD` is not a storage element (R26). -/
structure Block where
  /-- `HIN`, register 4 (R21) -/
  hin : Word
  /-- `HASH`, register 5 (R22) -/
  hash : Word
  /-- `THASH`, register 6 (R23) -/
  thash : Word
  /-- `PLEN`, register 7 (R24) -/
  plen : Word
  /-- `STATUS.ST` (R27) -/
  st : Status
  /-- `STATUS.TV` (R27) -/
  tv : Bool
  /-- `ILEN`, register 2 (R28) -/
  ilen : Word
  /-- `OLEN`, register 3 (R29) -/
  olen : Word
  /-- `IBUF` (R32) -/
  ibuf : Memory
  /-- `OBUF` (R33) -/
  obuf : Memory
  /-- `ACC`, `IDX`, `BLK` (R34) -/
  hasher : Hasher
  deriving DecidableEq, Repr

/-- The machine: the block, and beside it the model's own fields (R39: parameters and inputs, not
state of the block). -/
structure State where
  /-- the block's state -/
  block : Block
  /-- `CAP` (R10), which no step changes (log entry 3) -/
  cap : Config.Capacity
  /-- the host events not yet served, oldest first (R8, R216; log entry 5) -/
  script : List HostEvent
  /-- the responses given so far, oldest first (R181, R216; log entry 5) -/
  responses : List Response
  /-- counts the transactions that read a byte holding no value (U1; log entry 2) -/
  draws : Nat
  deriving DecidableEq, Repr

/-- Why the machine stops with a fault: never. R184: a command never fails, and R181 to R183: a
transaction that makes no sense gets an `Err` response, after which the block is fully usable. So
there is no constructor (log entry 13). -/
inductive Fault : Type where
  deriving DecidableEq, Repr

/-- Why the model gives no meaning. -/
inductive Refusal where
  /-- raised by an arm of `exec` for an instruction not modelled yet (safe); no arm raises it -/
  | notModelled (mnemonic : String)
  deriving DecidableEq, Repr

/-- What a step or a meaning answers. -/
abbrev Result := Host.Outcome State Fault Refusal

/-- R37: the block after reset. The buffers hold no value ("unspecified"); the hidden registers, which
R37 leaves unspecified and unobservable, are zero by choice (log entry 4). -/
def Block.reset : Block where
  hin := 0
  hash := 0
  thash := 0
  plen := 0
  st := .unsigned
  tv := false
  ilen := 0
  olen := 0
  ibuf := []
  obuf := []
  hasher := ⟨0, 0, 0⟩

/-- The machine right after reset, with no host event yet (R37, R201; log entries 3, 4, 5). -/
def State.reset : State where
  block := Block.reset
  cap := Config.capacity
  script := []
  responses := []
  draws := 0

/-! ## Writing one field -/

def Block.setHin (b : Block) (v : Word) : Block := { b with hin := v }
def Block.setHash (b : Block) (v : Word) : Block := { b with hash := v }
def Block.setThash (b : Block) (v : Word) : Block := { b with thash := v }
def Block.setPlen (b : Block) (v : Word) : Block := { b with plen := v }
def Block.setSt (b : Block) (v : Status) : Block := { b with st := v }
def Block.setTv (b : Block) (v : Bool) : Block := { b with tv := v }
def Block.setIlen (b : Block) (v : Word) : Block := { b with ilen := v }
def Block.setOlen (b : Block) (v : Word) : Block := { b with olen := v }
def Block.setIbuf (b : Block) (v : Memory) : Block := { b with ibuf := v }
def Block.setObuf (b : Block) (v : Memory) : Block := { b with obuf := v }
def Block.setHasher (b : Block) (v : Hasher) : Block := { b with hasher := v }

def State.setBlock (s : State) (v : Block) : State := { s with block := v }
def State.setCap (s : State) (v : Config.Capacity) : State := { s with cap := v }
def State.setScript (s : State) (v : List HostEvent) : State := { s with script := v }
def State.setResponses (s : State) (v : List Response) : State := { s with responses := v }
def State.setDraws (s : State) (v : Nat) : State := { s with draws := v }

end Sys2Proof.Machine
end

