-- ==== Sys2Proof/Machine/Ops.lean ====
section
/-! DEFINITION. The shared operations: byte order (spec/00_scope.md R13, spec/20_memory.md R51), the
buffers, and answering a transaction, an error response among them (spec/60_exceptions.md R181, R182,
R188). -/

namespace Sys2Proof.Machine

/-! ## Byte order -/

/-- The number whose base-256 digits are `s`, least significant first. -/
def leNat : List Byte → Nat
  | [] => 0
  | b :: s => b.toNat + 256 * leNat s

/-- R13 `LE64(s)`, for a sequence of 8 bytes. -/
def le64 (s : List Byte) : Word := BitVec.ofNat 64 (leNat s)

/-- R13: element `j` of `LEbytes64(v)` is `v[8j+7 : 8j]`. -/
def leByte (v : Word) (j : Nat) : Byte := v.extractLsb' (8 * j) 8

/-- R13 `LEbytes64(v)`. -/
def leBytes64 (v : Word) : List Byte := (List.range Config.hashBytes).map (leByte v)

/-! ## Buffers -/

/-- The value held at an address, if there is one. -/
def Memory.read? : Memory → Nat → Option Byte
  | [], _ => none
  | (k, v) :: m, a => if k = a then some v else Memory.read? m a

/-- Writes one byte, keeping the addresses rising. -/
def Memory.write : Memory → Nat → Byte → Memory
  | [], a, v => [(a, v)]
  | (k, w) :: m, a, v =>
    if a < k then (a, v) :: (k, w) :: m
    else if a = k then (a, v) :: m
    else (k, w) :: Memory.write m a v

/-- R14 `MemWrite(space, addr, n, s)`: the bytes of `s` to ascending addresses from `a`. -/
def Memory.writeBytes : Memory → Nat → List Byte → Memory
  | m, _, [] => m
  | m, a, v :: s => Memory.writeBytes (Memory.write m a v) (a + 1) s

/-! ## Answering a transaction -/

/-- R181: the transaction ends with response `r`. -/
def State.respond (s : State) (r : Response) : State := s.setResponses (s.responses ++ [r])

/-- R14 `respond OK`. -/
def State.respondOk (s : State) : State := s.respond .ok

/-- R14 `raise Err(code)`, R182, R188: taking an error. The response is all there is: nothing is saved,
no mode changes, and no state of the block is written. There is no return from it (R189). -/
def State.respondErr (s : State) (code : ErrorCode) : State := s.respond (.err code)

/-! ## Reads of bytes that hold no value -/

/-- The value a read gives: what the cell holds, or a free value (U1; log entry 1). -/
def State.valueOr (s : State) (use : Config.Access) (a : Nat) (cell : Option Byte) : Byte :=
  cell.getD (Config.freeByte s.draws use a)

/-- R205 Duty 1: every byte of `IBUF[0..ILEN)` has been written since the last reset. -/
def State.inputComplete (s : State) : Bool :=
  (List.range s.block.ilen.toNat).all fun a => (s.block.ibuf.read? a).isSome

/-- After a transaction that may have read a byte holding no value, the next one draws anew (U1: "a
fresh draw at every read"; log entry 2). -/
def State.endReads (s : State) (held : Bool) : State :=
  if held then s else s.setDraws (s.draws + 1)

end Sys2Proof.Machine
end

