-- ==== Sys2Proof/Machine/Functions.lean ====
section
/-! DEFINITION. The functions of the document over byte sequences, apart from any register or buffer:
`hash` (spec/40_hasher.md), `encode` and `tryDecode` (spec/41_trailer_codec.md), `classify`
(spec/42_detector.md), `add`, `remove`, `resign` (spec/43_signature_ops.md). The commands compute them
over the input buffer. -/

namespace Sys2Proof.Machine

/-! ## BlockHasher -/

/-- R101 `padlen(n)`. -/
def padlen (n : Nat) : Nat :=
  (Config.blockBytes - n % Config.blockBytes) % Config.blockBytes

/-- R101 `pad(b)`. -/
def pad (b : List Byte) : List Byte := b ++ List.replicate (padlen b.length) 0#8

/-- R102 `nblocks(n) = ceil(n/8)`. -/
def nblocks (n : Nat) : Nat := (n + (Config.blockBytes - 1)) / Config.blockBytes

/-- R102: the bytes of block `i` of the padded sequence: `b[8i + j]` below `|b|`, else 0. -/
def blockOf (b : List Byte) (i : Nat) : List Byte :=
  (List.range Config.blockBytes).map fun j => b.getD (Config.blockBytes * i + j) 0#8

/-- R104 `blockValue`. -/
def blockValueOf (b : List Byte) (i : Nat) : Word := le64 (blockOf b i)

/-- R105 `mix(i) = i *64 1024`. -/
def mix (i : Word) : Word := i * Config.indexScale

/-- R105 `contribution = blockValue XOR mix(i)`. -/
def contribution (value i : Word) : Word := value ^^^ mix i

/-- R107: the sum modulo 2^64 of the contributions of blocks 0 to `k - 1`. -/
def partialHash (b : List Byte) (k : Nat) : Word :=
  (List.range k).foldl (fun acc i => acc + contribution (blockValueOf b i) (BitVec.ofNat 64 i)) 0

/-- R106, R107 `hash(b)`. -/
def blockHash (b : List Byte) : Word := partialHash b (nblocks b.length)

/-- R114 to R117: the hidden registers when a run over `b` has finished: `ACC` the hash, `IDX` the
number of blocks, `BLK` the last block's value, or what it held before when there is no block. -/
def hasherAfter (b : List Byte) (before : Hasher) : Hasher where
  acc := blockHash b
  idx := BitVec.ofNat 64 (nblocks b.length)
  blk := if b.length = 0 then before.blk else blockValueOf b (nblocks b.length - 1)

/-! ## TrailerCodec -/

/-- R121 `encode(h)`: the nine trailer bytes. -/
def trailer (h : Word) : List Byte := leBytes64 h ++ [Config.flag]

/-- R124: at least 9 bytes, the last of them 0xFF. -/
def trailerShaped (b : List Byte) : Bool :=
  decide (Config.trailerBytes ≤ b.length) && (b.getD (b.length - 1) 0#8 == Config.flag)

/-- The byte sequence `b[i..j)` (R12). -/
def slice (b : List Byte) (i j : Nat) : List Byte := (b.drop i).take (j - i)

/-- R124 `tryDecode(b)`: the decoded hash and the payload length, or absent. -/
def tryDecode (b : List Byte) : Option (Word × Nat) :=
  if b.length < Config.trailerBytes then none
  else if b.getD (b.length - 1) 0#8 ≠ Config.flag then none
  else some (le64 (slice b (b.length - Config.trailerBytes) (b.length - 1)),
    b.length - Config.trailerBytes)

/-! ## SignatureDetector -/

/-- R141 step 4: the status of a trailer-shaped sequence. -/
def statusOf (expected h : Word) : Status := if expected = h then .signed else .changedData

/-- R141 `classify(b)`: the status and the payload. -/
def classify (b : List Byte) : Status × List Byte :=
  match tryDecode b with
  | none => (.unsigned, b)
  | some (h, n) => (statusOf (blockHash (b.take n)) h, b.take n)

/-! ## SignatureOperations -/

/-- R160 `add(status, payload)`, which does not read the status. -/
def addOp (c : Status × List Byte) : List Byte := c.2 ++ trailer (blockHash c.2)

/-- R160 `remove(status, payload)`. -/
def removeOp (c : Status × List Byte) : List Byte := c.2

/-- R160 `resign(status, payload)`. -/
def resignOp (c : Status × List Byte) : List Byte := c.2 ++ trailer (blockHash c.2)

end Sys2Proof.Machine
end

