-- ==== Sys2Proof/Machine/Operands.lean ====
section
/-! DEFINITION. The implicit operands of the commands (spec/30_encoding.md R80, R83): the reads of
`IBUF[0..ILEN)` that spec/20_memory.md R55 lists. `HIN` is the register field itself. -/

namespace Sys2Proof.Machine

/-- One byte of `IBUF`, for the access `use`. -/
def State.inputByte (s : State) (use : Config.Access) (a : Nat) : Byte :=
  s.valueOr use a (s.block.ibuf.read? a)

/-- One byte of `OBUF`, as the host's `RDO` reads it. -/
def State.outputByte (s : State) (a : Nat) : Byte :=
  s.valueOr .hostOutput a (s.block.obuf.read? a)

/-- The bytes the access `use` sees at addresses 0 to `n - 1` (R14 `MemRead(IBUF, 0, n)`). -/
def State.inputBytes (s : State) (use : Config.Access) (n : Nat) : List Byte :=
  (List.range n).map (s.inputByte use)

/-- R102 `blockbytes(n, i)`: the block read, with every address at or above `n` read as 0. -/
def State.blockBytes (s : State) (n i : Nat) : List Byte :=
  (List.range Config.blockBytes).map fun j =>
    if Config.blockBytes * i + j < n then s.inputByte .block (Config.blockBytes * i + j) else 0#8

/-- R104 `blockValue(n, i)`. -/
def State.blockValue (s : State) (n i : Nat) : Word := le64 (s.blockBytes n i)

/-- R124: the flag byte `IBUF[ILEN-1]`. -/
def State.flagByte (s : State) : Byte := s.inputByte .flag (s.block.ilen.toNat - 1)

/-- R124: the hash field `IBUF[ILEN-9 .. ILEN-1)`, at any alignment (R54). -/
def State.trailerHash (s : State) : Word :=
  le64 ((List.range Config.hashBytes).map fun j =>
    s.inputByte .trailer (s.block.ilen.toNat - Config.trailerBytes + j))

end Sys2Proof.Machine
end

