-- ==== Sys2Proof/Machine/Codec.lean ====
section
/-! DEFINITION. The TrailerCodec over the buffers and the commands ENCODE and TRYDECODE
(spec/41_trailer_codec.md R121 to R125). -/

namespace Sys2Proof.Machine

/-- R55 trailer write: the nine bytes of `encode(h)` to `OBUF[n..n+9)`. -/
def State.writeTrailer (s : State) (n : Nat) (h : Word) : State :=
  s.setBlock (s.block.setObuf (s.block.obuf.writeBytes n (trailer h)))

/-- The length of the output image. -/
def State.setImageLength (s : State) (n : Word) : State := s.setBlock (s.block.setOlen n)

/-- R124 over the input buffer: the length test, then the flag test, then the hash field; the payload
length is `ILEN - 9`. -/
def State.decodeTrailer (s : State) : Option (Word × Word) :=
  if s.block.ilen.toNat < Config.trailerBytes then none
  else if s.flagByte ≠ Config.flag then none
  else some (s.trailerHash, s.block.ilen - BitVec.ofNat 64 Config.trailerBytes)

/-- R125: what TRYDECODE writes. -/
def State.latchTrailer (s : State) : State :=
  match s.decodeTrailer with
  | none => s.setBlock (s.block.setTv false)
  | some (h, n) => s.setBlock (((s.block.setTv true).setThash h).setPlen n)

/-- R122 ENCODE: `OBUF[0..9) <- encode(HIN); OLEN <- 9`. -/
def execEncode (s : State) : Result :=
  .next ((s.writeTrailer 0 s.block.hin).setImageLength
    (BitVec.ofNat 64 Config.trailerBytes)).respondOk

/-- R125 TRYDECODE. -/
def execTryDecode (s : State) : Result :=
  .next (s.latchTrailer.endReads s.inputComplete).respondOk

end Sys2Proof.Machine
end

