-- ==== Sys2Proof/Machine/Flags.lean ====
section
/-! DEFINITION. The `STATUS` register (spec/10_state.md R27): its fields' codes, its value as a host
reads it, and the flag update of a classification. -/

namespace Sys2Proof.Machine

/-- R27, D7: the code of a status in `STATUS.ST`. -/
def Status.code : Status → BitVec 2
  | .unsigned => 0#2
  | .signed => 1#2
  | .changedData => 2#2

/-- R27, R58: `STATUS` as it is read, `ST` in bits 1:0, `TV` in bit 2, bits 7:3 zero. -/
def Block.statusByte (b : Block) : Byte := 0#5 ++ (BitVec.ofBool b.tv ++ b.st.code)

/-- R143: the two fields of `STATUS` when no trailer is recognised. -/
def Block.flagAbsent (b : Block) : Block := (b.setTv false).setSt .unsigned

/-- R143: the two fields of `STATUS` when a trailer with hash `h` is recognised and the payload hashes
to `expected`; all 64 bits are compared (R108). -/
def Block.flagPresent (b : Block) (expected h : Word) : Block :=
  (b.setTv true).setSt (statusOf expected h)

/-- R181: the number of an error code. -/
def ErrorCode.number : ErrorCode → Nat
  | .illegalCmd => 1
  | .length => 2
  | .address => 3
  | .access => 4

end Sys2Proof.Machine
end

