-- ==== Sys2Proof/Machine/Hasher.lean ====
section
/-! DEFINITION. The BlockHasher as its small steps INIT, ABSORB, FINISH (spec/40_hasher.md R114 to
R117) and the command HASH (R110). -/

namespace Sys2Proof.Machine

/-- R114 INIT: `ACC <- 0; IDX <- 0`. -/
def Hasher.init (h : Hasher) : Hasher := { h with acc := 0, idx := 0 }

/-- R115 ABSORB, over the first `n` bytes of the input buffer of `s`. -/
def State.absorb (s : State) (n : Nat) (h : Hasher) : Hasher where
  blk := s.blockValue n h.idx.toNat
  acc := h.acc + contribution (s.blockValue n h.idx.toNat) h.idx
  idx := h.idx + 1

/-- R115: ABSORB is enabled while `8 * IDX < n`. -/
def Hasher.absorbing (h : Hasher) (n : Nat) : Bool := decide (Config.blockBytes * h.idx.toNat < n)

/-- R115, R116: ABSORB while it is enabled, then FINISH. `fuel` bounds the steps; R117: `nblocks n` are
enough. -/
def State.absorbAll (s : State) (n : Nat) : Nat → Hasher → Hasher
  | 0, h => h
  | fuel + 1, h => if h.absorbing n then s.absorbAll n fuel (s.absorb n h) else h

/-- R117: a run over the prefix of length `n`: the hidden registers when it has finished. -/
def State.runHasher (s : State) (n : Nat) : Hasher :=
  s.absorbAll n (nblocks n) s.block.hasher.init

/-- R107, R116: the block after a run of the hasher over the prefix of length `n`, with
`HASH <- hash_prefix(n)`. -/
def State.hashPrefix (s : State) (n : Nat) : State :=
  s.setBlock ((s.block.setHasher (s.runHasher n)).setHash (s.runHasher n).acc)

/-- R110 HASH: `HASH <- hash_prefix(ILEN)`. -/
def execHash (s : State) : Result :=
  .next ((s.hashPrefix s.block.ilen.toNat).endReads s.inputComplete).respondOk

end Sys2Proof.Machine
end

