-- ==== Sys2Proof/Machine/Detector.lean ====
section
/-! DEFINITION. The SignatureDetector over the buffers and the command CLASSIFY
(spec/42_detector.md R141, R143). -/

namespace Sys2Proof.Machine

/-- R143 without its response, which is also phase 1 of ADD, REMOVE and RESIGN (R161, R162): in the
absent case the hasher is not run, in the present case it is run over the payload only. -/
def State.classifyInput (s : State) : State :=
  match s.decodeTrailer with
  | none => s.setBlock (s.block.flagAbsent.setPlen s.block.ilen)
  | some (h, n) =>
    let t := s.hashPrefix n.toNat
    t.setBlock (((t.block.setThash h).setPlen n).flagPresent t.block.hash h)

/-- R143 CLASSIFY. -/
def execClassify (s : State) : Result :=
  .next (s.classifyInput.endReads s.inputComplete).respondOk

end Sys2Proof.Machine
end

