-- ==== Sys2Proof/Machine/Sequencer.lean ====
section
/-! DEFINITION. The operation sequencer and the commands ADD, REMOVE and RESIGN
(spec/43_signature_ops.md R161 to R167). -/

namespace Sys2Proof.Machine

/-- R162, R164: `MemWrite(OBUF, 0, n, IBUF[0..n))`, the payload copy of R55. -/
def State.copyPayload (s : State) (n : Nat) : State :=
  s.setBlock (s.block.setObuf (s.block.obuf.writeBytes 0 (s.inputBytes .copy n)))

/-- R162 phase 2, first line: in the absent case the hash is not yet computed. -/
def State.hashIfAbsent (s : State) : State :=
  if s.block.tv then s else s.hashPrefix s.block.plen.toNat

/-- R162 phase 2, the rest: the payload copy, the trailer of `HASH` behind it, and `OLEN <- n + 9`. -/
def State.signPayload (s : State) : State :=
  ((s.copyPayload s.block.plen.toNat).writeTrailer s.block.plen.toNat s.block.hash).setImageLength
    (s.block.plen + BitVec.ofNat 64 Config.trailerBytes)

/-- R164 phase 2: the payload copy and `OLEN <- n`. -/
def State.stripPayload (s : State) : State :=
  (s.copyPayload s.block.plen.toNat).setImageLength s.block.plen

/-- R162: both phases of ADD, without the response. -/
def State.signInput (s : State) : State := s.classifyInput.hashIfAbsent.signPayload

/-- R162 ADD. -/
def execAdd (s : State) : Result :=
  .next (s.signInput.endReads s.inputComplete).respondOk

/-- R164 REMOVE. -/
def execRemove (s : State) : Result :=
  .next (s.classifyInput.stripPayload.endReads s.inputComplete).respondOk

/-- R166 RESIGN: "identical to rule R162 (`ADD`), both phases". -/
def execResign (s : State) : Result :=
  .next (s.signInput.endReads s.inputComplete).respondOk

end Sys2Proof.Machine
end

