-- ==== Sys2Proof/Machine/Dispatch.lean ====
section
/-! DEFINITION. One arm per command. -/

namespace Sys2Proof.Machine

def exec (i : Instr) (s : State) : Host.Outcome State Fault Refusal :=
  match i with
  | .hash => Sys2Proof.Machine.execHash s
  | .encode => Sys2Proof.Machine.execEncode s
  | .tryDecode => Sys2Proof.Machine.execTryDecode s
  | .classify => Sys2Proof.Machine.execClassify s
  | .add => Sys2Proof.Machine.execAdd s
  | .remove => Sys2Proof.Machine.execRemove s
  | .resign => Sys2Proof.Machine.execResign s

end Sys2Proof.Machine
end

