-- ==== Sys2Proof/Machine/Transactions.lean ====
section
/-! DEFINITION. The five host transactions (spec/20_memory.md R58 to R62), the command issue among
them (spec/30_encoding.md R80), and the reset input (spec/70_reset_and_hazards.md R200). -/

namespace Sys2Proof.Machine

/-- R58 `RDR k`: numbers from 8 name no register, `CMD` is write-only, the rest is read whole. -/
def State.readRegister (s : State) : Nat → State
  | 0 => s.respondErr .access
  | 1 => s.respond (.okByte s.block.statusByte)
  | 2 => s.respond (.okWord s.block.ilen)
  | 3 => s.respond (.okWord s.block.olen)
  | 4 => s.respond (.okWord s.block.hin)
  | 5 => s.respond (.okWord s.block.hash)
  | 6 => s.respond (.okWord s.block.thash)
  | 7 => s.respond (.okWord s.block.plen)
  | _ => s.respondErr .address

/-- R59, R28: the write of `ILEN`. -/
def State.writeLength (s : State) (v : Word) : State :=
  if v.toNat > s.cap.val then s.respondErr .length
  else (s.setBlock (s.block.setIlen v)).respondOk

/-- R80: "if it is one of the seven defined values the block executes that command atomically and
responds `OK`; otherwise rule R82 applies". -/
def State.issue (s : State) (op : Byte) : Result :=
  match decode op with
  | .ok i => exec i s
  | .error (.reservedOpcode _) => .next (s.respondErr .illegalCmd)

/-- R59 `WRR k, v`, with the value at the width of register `k` (R25). -/
def State.writeRegister (s : State) : (k : Nat) → BitVec (regWidth k) → Result
  | 0, op => s.issue op
  | 1, _ => .next (s.respondErr .access)
  | 2, v => .next (s.writeLength v)
  | 3, _ => .next (s.respondErr .access)
  | 4, v => .next (s.setBlock (s.block.setHin v)).respondOk
  | 5, _ => .next (s.respondErr .access)
  | 6, _ => .next (s.respondErr .access)
  | 7, _ => .next (s.respondErr .access)
  | _, _ => .next (s.respondErr .address)

/-- R60 `WRI a, v`. -/
def State.writeInput (s : State) (a : Nat) (v : Byte) : State :=
  if a ≥ s.cap.val then s.respondErr .address
  else (s.setBlock (s.block.setIbuf (s.block.ibuf.write a v))).respondOk

/-- R61 `RDI a`. -/
def State.readInput (s : State) (a : Nat) : State :=
  if a ≥ s.block.ilen.toNat then s.respondErr .address
  else (s.endReads (s.block.ibuf.read? a).isSome).respond (.okByte (s.inputByte .hostInput a))

/-- R62 `RDO a`. -/
def State.readOutput (s : State) (a : Nat) : State :=
  if a ≥ s.block.olen.toNat then s.respondErr .address
  else (s.endReads (s.block.obuf.read? a).isSome).respond (.okByte (s.outputByte a))

/-- R200, R202: the reset input. No byte written before it is promised to survive, so no byte holds a
value after it; the draw counter goes on, so that later free values are new (log entry 6). -/
def State.resetBlock (s : State) : State := s.setBlock Block.reset

/-- Serves one host event. -/
def serve : HostEvent → State → Result
  | .rdr k, s => .next (s.readRegister k)
  | .wrr k v, s => s.writeRegister k v
  | .wri a v, s => .next (s.writeInput a v)
  | .rdi a, s => .next (s.readInput a)
  | .rdo a, s => .next (s.readOutput a)
  | .reset, s => .next s.resetBlock

end Sys2Proof.Machine
end

