-- ==== Sys2Proof/Machine/Step.lean ====
section
/-! DEFINITION. One step of the machine: one host event served (spec/00_scope.md R7, R8). -/

namespace Sys2Proof.Machine

/-- R7, R8: the core acts only when the host has an event for it, and serves one at a time, oldest
first; with none it does nothing. -/
def step (s : State) : Host.Outcome State Fault Refusal :=
  match s.script with
  | [] => .next s
  | e :: rest => serve e (s.setScript rest)

/-- The opcode arrives in the transaction `WRR 0, op` itself (R66): that transaction, put before what
the host has still to issue. -/
def State.withFetchWord (s : State) (nbits w : Nat) : State :=
  s.setScript (.wrr 0 (tableOpcode nbits w) :: s.script)

end Sys2Proof.Machine
end

