-- ==== Sys2Proof/Machine/Script.lean ====
section
/-! DEFINITION. The pseudo-operations of spec/30_encoding.md R91 as lists of host transactions, and the
sequences a script leaves in the buffers. -/

namespace Sys2Proof.Machine

/-- `WRI a, s[0]; WRI a+1, s[1]; ...` -/
def Script.writeInput : Nat → List Byte → List HostEvent
  | _, [] => []
  | a, v :: s => .wri a v :: Script.writeInput (a + 1) s

/-- R91 `LOAD s`, for `|s| <= CAP`, or more: the out-of-range lines then respond `Err`. DESIGN CHOICE (log
entry 20): from 2^64 bytes on, where a 64-bit `ILEN` (R25) has no value `|s|` and the spec gives the last
line none, it writes `|s| mod 2^64`. -/
def Script.load (s : List Byte) : List HostEvent :=
  Script.writeInput 0 s ++ [.wrr 2 (BitVec.ofNat 64 s.length)]

/-- R91 `DUMP` of an image of `n` bytes. -/
def Script.dump (n : Nat) : List HostEvent := .rdr 3 :: (List.range n).map .rdo

/-- R91 `FEED` of an image `s`: `DUMP`, then `LOAD` of what it gave. -/
def Script.feed (s : List Byte) : List HostEvent := Script.dump s.length ++ Script.load s

/-- R90: the issue of a command by its opcode, `WRR CMD, op`. -/
def Script.command (op : Byte) : HostEvent := .wrr 0 op

end Sys2Proof.Machine
end

