-- ==== Sys2Proof/Safety.lean ====
section
/-! DEFINITION. The terms claims use: what the buffers hold, the invariant of the block, and a run of a
script (spec/70_reset_and_hazards.md R205, R216). -/

namespace Sys2Proof.Machine

/-- R205 Duty 1: the input buffer `IBUF[0..ILEN)` is the byte sequence `b`, every byte of it written. -/
def State.InputIs (s : State) (b : List Byte) : Prop :=
  s.block.ilen.toNat = b.length ∧ ∀ a, a < b.length → s.block.ibuf.read? a = b[a]?

/-- U1: `b` is a sequence the input buffer may stand for: it has every byte that was written below
`ILEN`, and any value elsewhere. -/
def State.InputMayBe (s : State) (b : List Byte) : Prop :=
  s.block.ilen.toNat = b.length ∧
    ∀ a v, a < b.length → s.block.ibuf.read? a = some v → b[a]? = some v

/-- R33: the output image `OBUF[0..OLEN)` is the byte sequence `b`. -/
def State.ImageIs (s : State) (b : List Byte) : Prop :=
  s.block.olen.toNat = b.length ∧ ∀ a, a < b.length → s.block.obuf.read? a = b[a]?

/-- R144: the payload view `IBUF[0..PLEN)` is the byte sequence `p`. -/
def State.PayloadIs (s : State) (p : List Byte) : Prop :=
  s.block.plen.toNat = p.length ∧ ∀ a, a < p.length → s.block.ibuf.read? a = p[a]?

/-- The bounds of R24, R28, R29, R32, R33, the canonical form of both buffers, and R33's readable
image: every byte below `OLEN` holds a value. -/
structure State.Inv (s : State) : Prop where
  ilen_le : s.block.ilen.toNat ≤ s.cap.val
  plen_le : s.block.plen.toNat ≤ s.cap.val
  olen_le : s.block.olen.toNat ≤ s.cap.val + Config.trailerBytes
  ibuf_wf : s.block.ibuf.wf
  obuf_wf : s.block.obuf.wf
  ibuf_lt : ∀ c ∈ s.block.ibuf, c.1 < s.cap.val
  obuf_lt : ∀ c ∈ s.block.obuf, c.1 < s.cap.val + Config.trailerBytes
  image_held : ∀ a, a < s.block.olen.toNat → (s.block.obuf.read? a).isSome

/-- R143: the block after CLASSIFY, and after phase 1 of ADD, REMOVE and RESIGN (R161), on the input
buffer `b`. -/
def Block.afterClassify (k : Block) (b : List Byte) : Block :=
  match tryDecode b with
  | none => { k with tv := false, st := .unsigned, plen := BitVec.ofNat 64 b.length }
  | some (h, n) =>
    { k with
      tv := true
      st := (classify b).1
      plen := BitVec.ofNat 64 n
      thash := h
      hash := blockHash (classify b).2
      hasher := hasherAfter (classify b).2 k.hasher }

/-- R162, R166: the block after ADD or RESIGN on the input buffer `b`. -/
def Block.afterSign (k : Block) (b : List Byte) : Block :=
  { k.afterClassify b with
    hash := blockHash (classify b).2
    hasher := hasherAfter (classify b).2 k.hasher
    obuf := k.obuf.writeBytes 0 (addOp (classify b))
    olen := BitVec.ofNat 64 ((classify b).2.length + Config.trailerBytes) }

/-- R164: the block after REMOVE on the input buffer `b`. -/
def Block.afterStrip (k : Block) (b : List Byte) : Block :=
  { k.afterClassify b with
    obuf := k.obuf.writeBytes 0 (removeOp (classify b))
    olen := BitVec.ofNat 64 (classify b).2.length }

/-- R183: whether some transaction so far got an error response, kept in the model's history. -/
def State.sawError (s : State) : Bool :=
  s.responses.any fun r => match r with
    | .err _ => true
    | _ => false

/-- R216: a run of a script from a starting state, one step for each event. -/
def runScript (es : List HostEvent) (s : State) : Result :=
  Sys2Proof.core.run es.length (s.setScript es)

end Sys2Proof.Machine
end

