-- ==== Sys2Proof/Certificates/Slice0/Obligations.lean ====
section
/-! DEFINITION. The statements for the provers. Each docstring names the rule of spec/ it formalises. A
state `s.setScript (e :: rest)` is any state whose next host event is `e`. Where the spec marks a rule
`[derived]` as its own inference (R105, R111 to R113, R117, R126, R142, R145 to R148, R167 to R169, R171,
R184, R201), the statement of it is a consequence of the other rules and has basis 'derived'. -/

open Sys2Proof Sys2Proof.Machine

/-! ## Command words -/

/-- R81: each command's word, all eight bits matched (mask 0xFF), and no other word means a command. -/
def Obligations.OpcodeMapMatchesAllBits : Prop :=
  (decode 0b00000001#8 = .ok .hash ∧ decode 0b00000010#8 = .ok .encode ∧
    decode 0b00000011#8 = .ok .tryDecode ∧ decode 0b00000100#8 = .ok .classify ∧
    decode 0b00000101#8 = .ok .add ∧ decode 0b00000110#8 = .ok .remove ∧
    decode 0b00000111#8 = .ok .resign) ∧
  ∀ (op : Byte) (i : Instr), decode op = .ok i ↔ encode i = op

/-- R82: 0x00 and 0x08 to 0xFF are rejected by name; issuing one responds `Err(E_ILLEGAL_CMD)` and
changes no state. -/
def Obligations.ReservedOpcodesHaveNoEffect : Prop :=
  ∀ (op : Byte), op.toNat = 0 ∨ 8 ≤ op.toNat →
    decode op = .error (.reservedOpcode op) ∧
    ∀ (s : State) (rest : List HostEvent),
      step (s.setScript (.wrr 0 op :: rest)) = .next ((s.setScript rest).respondErr .illegalCmd)

/-- R80: a step on `WRR 0, op` whose opcode decodes runs exactly that command, which responds `OK`;
otherwise R82 applies. -/
def Obligations.CommandIssueRunsDecodedCommand : Prop :=
  ∀ (s : State) (rest : List HostEvent) (op : Byte),
    (∀ i, decode op = .ok i →
      step (s.setScript (.wrr 0 op :: rest)) = exec i (s.setScript rest) ∧
      ∃ t, exec i (s.setScript rest) = .next t ∧ t.responses = s.responses ++ [.ok]) ∧
    (∀ e, decode op = .error e →
      step (s.setScript (.wrr 0 op :: rest)) = .next ((s.setScript rest).respondErr .illegalCmd))

/-- R7: with no host event pending the core does not act. -/
def Obligations.IdleCoreKeepsState : Prop :=
  ∀ (s : State), step (s.setScript []) = .next (s.setScript [])

/-! ## Host transactions -/

/-- R58: `RDR k` for every `k`; a read changes nothing, and `STATUS` reads as `TV*4 + ST`. -/
def Obligations.RegisterReadResponds : Prop :=
  ∀ (s : State) (rest : List HostEvent) (k : Nat),
    step (s.setScript (.rdr k :: rest)) = .next ((s.setScript rest).respond
      (if 8 ≤ k then .err .address
       else if k = 0 then .err .access
       else if k = 1 then .okByte (BitVec.ofNat 8 (s.block.tv.toNat * 4 + s.block.st.code.toNat))
       else if k = 2 then .okWord s.block.ilen
       else if k = 3 then .okWord s.block.olen
       else if k = 4 then .okWord s.block.hin
       else if k = 5 then .okWord s.block.hash
       else if k = 6 then .okWord s.block.thash
       else .okWord s.block.plen))

/-- R27: the fields of `STATUS` as it is read, the three status codes, the zero bits 7:3. -/
def Obligations.StatusFieldsOfTheReadByte : Prop :=
  Status.unsigned.code = 0#2 ∧ Status.signed.code = 1#2 ∧ Status.changedData.code = 2#2 ∧
  ∀ (b : Block),
    b.statusByte.extractLsb' 0 2 = b.st.code ∧ b.statusByte.getLsbD 2 = b.tv ∧
    b.statusByte.extractLsb' 3 5 = 0#5 ∧ b.statusByte.extractLsb' 0 2 ≠ 3#2

/-- R59: `WRR k, v` for every `k`; a write of `ILEN` or `HIN` changes that register and nothing
else. -/
def Obligations.RegisterWriteResponds : Prop :=
  ∀ (s : State) (rest : List HostEvent),
    (∀ k (v : BitVec (regWidth k)), 8 ≤ k →
      step (s.setScript (.wrr k v :: rest)) = .next ((s.setScript rest).respondErr .address)) ∧
    (∀ op : Byte, step (s.setScript (.wrr 0 op :: rest)) =
      match decode op with
      | .ok i => exec i (s.setScript rest)
      | .error _ => .next ((s.setScript rest).respondErr .illegalCmd)) ∧
    (∀ v : Word, step (s.setScript (.wrr 2 v :: rest)) =
      .next (if s.cap.val < v.toNat then (s.setScript rest).respondErr .length
        else ((s.setScript rest).setBlock { s.block with ilen := v }).respondOk)) ∧
    (∀ v : Word, step (s.setScript (.wrr 4 v :: rest)) =
      .next ((s.setScript rest).setBlock { s.block with hin := v }).respondOk) ∧
    (∀ k (v : BitVec (regWidth k)), k = 1 ∨ k = 3 ∨ k = 5 ∨ k = 6 ∨ k = 7 →
      step (s.setScript (.wrr k v :: rest)) = .next ((s.setScript rest).respondErr .access))

/-- R60: `WRI a, v` writes one byte of `IBUF` and nothing else, or responds `Err(E_ADDRESS)`. -/
def Obligations.InputByteWriteStoresOneByte : Prop :=
  ∀ (s : State) (rest : List HostEvent) (a : Nat) (v : Byte),
    (s.cap.val ≤ a →
      step (s.setScript (.wri a v :: rest)) = .next ((s.setScript rest).respondErr .address)) ∧
    (a < s.cap.val → ∃ m : Memory,
      step (s.setScript (.wri a v :: rest)) =
        .next ((s.setScript rest).setBlock { s.block with ibuf := m }).respondOk ∧
      m.read? a = some v ∧ ∀ x, x ≠ a → m.read? x = s.block.ibuf.read? x)

/-- R61: `RDI a` responds with the byte and changes nothing, or responds `Err(E_ADDRESS)`. A byte
never written since reset gives some byte, and only the model's draw counter moves (log entry 1: the
model's choice). -/
def Obligations.InputByteReadResponds : Prop :=
  ∀ (s : State) (rest : List HostEvent) (a : Nat),
    (s.block.ilen.toNat ≤ a →
      step (s.setScript (.rdi a :: rest)) = .next ((s.setScript rest).respondErr .address)) ∧
    (a < s.block.ilen.toNat →
      (∀ v, s.block.ibuf.read? a = some v →
        step (s.setScript (.rdi a :: rest)) = .next ((s.setScript rest).respond (.okByte v))) ∧
      (s.block.ibuf.read? a = none → ∃ v,
        step (s.setScript (.rdi a :: rest)) =
          .next (((s.setScript rest).setDraws (s.draws + 1)).respond (.okByte v))))

/-- R62: `RDO a` responds with the byte of the image and changes nothing, or responds
`Err(E_ADDRESS)`. -/
def Obligations.OutputByteReadResponds : Prop :=
  ∀ (s : State) (rest : List HostEvent) (a : Nat),
    (s.block.olen.toNat ≤ a →
      step (s.setScript (.rdo a :: rest)) = .next ((s.setScript rest).respondErr .address)) ∧
    (a < s.block.olen.toNat → ∀ v, s.block.obuf.read? a = some v →
      step (s.setScript (.rdo a :: rest)) = .next ((s.setScript rest).respond (.okByte v)))

/-- R182: a transaction that responds `Err` changes no state at all; the script has moved on by the
transaction and the response is recorded. -/
def Obligations.FailedTransactionChangesNothing : Prop :=
  ∀ (s : State) (rest : List HostEvent) (e : HostEvent) (t : State) (c : ErrorCode),
    step (s.setScript (e :: rest)) = .next t → t.responses = s.responses ++ [.err c] →
    t = (s.setScript rest).respondErr c

/-- R181: the four error codes, their numbers, and exactly which transactions raise each. -/
def Obligations.ErrorCodesHaveTheirCauses : Prop :=
  ErrorCode.illegalCmd.number = 1 ∧ ErrorCode.length.number = 2 ∧
  ErrorCode.address.number = 3 ∧ ErrorCode.access.number = 4 ∧
  ∀ (s : State) (rest : List HostEvent) (e : HostEvent),
    let raises := fun c : ErrorCode => ∃ t, step (s.setScript (e :: rest)) = .next t ∧
      t.responses = s.responses ++ [.err c]
    (raises .illegalCmd ↔ ∃ op : Byte, e = .wrr 0 op ∧ (op.toNat = 0 ∨ 8 ≤ op.toNat)) ∧
    (raises .length ↔ ∃ v : Word, e = .wrr 2 v ∧ s.cap.val < v.toNat) ∧
    (raises .address ↔
      (∃ k, e = .rdr k ∧ 8 ≤ k) ∨ (∃ k v, e = .wrr k v ∧ 8 ≤ k) ∨
      (∃ a v, e = .wri a v ∧ s.cap.val ≤ a) ∨ (∃ a, e = .rdi a ∧ s.block.ilen.toNat ≤ a) ∨
      (∃ a, e = .rdo a ∧ s.block.olen.toNat ≤ a)) ∧
    (raises .access ↔
      e = .rdr 0 ∨ ∃ k v, e = .wrr k v ∧ (k = 1 ∨ k = 3 ∨ k = 5 ∨ k = 6 ∨ k = 7))

/-- R181, R215: every transaction ends with exactly one response, and the next event is then the
next to be served; the reset input has no response (R200). -/
def Obligations.EveryTransactionRespondsOnce : Prop :=
  ∀ (s : State) (rest : List HostEvent) (e : HostEvent),
    ∃ t, step (s.setScript (e :: rest)) = .next t ∧ t.script = rest ∧ t.cap = s.cap ∧
      (e = .reset → t.responses = s.responses) ∧
      (e ≠ .reset → ∃ r, t.responses = s.responses ++ [r])

/-- R184: the seven commands never fail; each responds `OK` in every state. -/
def Obligations.CommandsNeverFail : Prop :=
  ∀ (i : Instr) (s : State), ∃ t, exec i s = .next t ∧ t.responses = s.responses ++ [.ok] ∧
    t.script = s.script ∧ t.cap = s.cap

/-! ## Results of the commands, on a buffer that is completely written (R205) -/

/-- R110: HASH writes the hash of the whole buffer, and the hidden registers (to what,
HasherRunIsCeilAbsorbSteps says). -/
def Obligations.HashWritesHashOfBuffer : Prop :=
  ∀ (s : State) (b : List Byte), s.InputIs b → ∃ k : Hasher,
    exec .hash s = .next (s.setBlock { s.block with hash := blockHash b, hasher := k }).respondOk

/-- R117: after `k` ABSORB steps `ACC` is the sum of the first `k` contributions and `IDX = k`; ABSORB
is enabled exactly while `k < ceil(n/8)`; the run is INIT and `ceil(n/8)` ABSORB steps, and its result
is `hash_prefix(n)`. For the bytes the block reads see, in every state. -/
def Obligations.HasherRunIsCeilAbsorbSteps : Prop :=
  ∀ (s : State) (n : Nat), n < 2 ^ 64 →
    (∀ k, k ≤ nblocks n →
      ((s.absorb n)^[k] s.block.hasher.init).acc = partialHash (s.inputBytes .block n) k ∧
      ((s.absorb n)^[k] s.block.hasher.init).idx.toNat = k ∧
      (((s.absorb n)^[k] s.block.hasher.init).absorbing n = true ↔ k < nblocks n)) ∧
    s.runHasher n = (s.absorb n)^[nblocks n] s.block.hasher.init ∧
    (s.runHasher n).acc = blockHash (s.inputBytes .block n) ∧
    nblocks n * 8 = n + padlen n

/-- R122: ENCODE writes `encode(HIN)` to `OBUF[0..9)` and `OLEN <- 9`, in every state. -/
def Obligations.EncodeWritesTrailerOfHin : Prop :=
  ∀ (s : State), ∃ m : Memory,
    exec .encode s = .next (s.setBlock { s.block with obuf := m, olen := 9 }).respondOk ∧
    (∀ j, j < 8 → m.read? j = some (s.block.hin.extractLsb' (8 * j) 8)) ∧
    m.read? 8 = some 0xFF#8

/-- R125: TRYDECODE writes `TV`, and `THASH` and `PLEN` when a trailer is present. -/
def Obligations.TryDecodeLatchesTrailer : Prop :=
  ∀ (s : State) (b : List Byte), s.InputIs b →
    exec .tryDecode s = .next (s.setBlock (match tryDecode b with
      | none => { s.block with tv := false }
      | some (h, n) =>
        { s.block with tv := true, thash := h, plen := BitVec.ofNat 64 n })).respondOk

/-- R143: CLASSIFY, in its absent and its present case; the hasher runs in the present case only. -/
def Obligations.ClassifyRecordsClassification : Prop :=
  ∀ (s : State) (b : List Byte), s.InputIs b → ∃ k : Hasher,
    exec .classify s = .next (s.setBlock (match tryDecode b with
      | none =>
        { s.block with tv := false, st := .unsigned, plen := BitVec.ofNat 64 b.length }
      | some (h, n) =>
        { s.block with
          tv := true
          thash := h
          plen := BitVec.ofNat 64 n
          hash := blockHash (b.take n)
          st := if blockHash (b.take n) = h then .signed else .changedData
          hasher := k })).respondOk

/-- R162: ADD classifies, writes the payload and its fresh trailer from address 0, and `OLEN`. -/
def Obligations.AddWritesSignedImage : Prop :=
  ∀ (s : State) (b : List Byte), s.InputIs b → ∃ (m : Memory) (k : Hasher),
    exec .add s = .next (s.setBlock { s.block.afterClassify b with
      hash := blockHash (classify b).2
      hasher := k
      olen := BitVec.ofNat 64 ((classify b).2.length + 9)
      obuf := m }).respondOk ∧
    (∀ a, a < (classify b).2.length + 9 →
      m.read? a = ((classify b).2 ++ leBytes64 (blockHash (classify b).2) ++ [0xFF#8])[a]?)

/-- R164: REMOVE classifies, writes the payload alone from address 0, and `OLEN`. -/
def Obligations.RemoveWritesPayload : Prop :=
  ∀ (s : State) (b : List Byte), s.InputIs b → ∃ (m : Memory) (k : Hasher),
    exec .remove s = .next (s.setBlock { s.block.afterClassify b with
      hasher := k
      olen := BitVec.ofNat 64 (classify b).2.length
      obuf := m }).respondOk ∧
    (∀ a, a < (classify b).2.length → m.read? a = (classify b).2[a]?)

/-- R166: RESIGN recomputes the hash over the stripped payload and appends a fresh trailer. -/
def Obligations.ResignWritesFreshTrailer : Prop :=
  ∀ (s : State) (b : List Byte), s.InputIs b → ∃ (m : Memory) (k : Hasher),
    exec .resign s = .next (s.setBlock { s.block.afterClassify b with
      hash := blockHash (removeOp (classify b))
      hasher := k
      olen := BitVec.ofNat 64 ((classify b).2.length + 9)
      obuf := m }).respondOk ∧
    (∀ a, a < (classify b).2.length + 9 →
      m.read? a = (removeOp (classify b) ++ trailer (blockHash (removeOp (classify b))))[a]?)

/-- R167: for every state, issuing RESIGN leaves exactly the state that issuing ADD would have left,
and `resign(s, p) = add(s, remove(s, p)) = add(s, p)`. -/
def Obligations.ResignIsAdd : Prop :=
  (∀ s : State, exec .resign s = exec .add s) ∧
  ∀ (st : Status) (p : List Byte),
    resignOp (st, p) = addOp (st, removeOp (st, p)) ∧ resignOp (st, p) = addOp (st, p)

/-- R205, U1, and the model's choice of log entry 1: on any state, written or not, HASH, TRYDECODE and
CLASSIFY have the effect the rules give for some sequence that has every byte written. The values of the
hidden registers after HASH and CLASSIFY, which R34 leaves unspecified between commands, are what the run
of R114 to R117 leaves in them (log entry 11, DEDUCED: the model's). -/
def Obligations.UnwrittenBytesAreFreeInRegisterCommands : Prop :=
  ∀ (s : State),
    (∃ b t, s.InputMayBe b ∧ exec .hash s = .next t ∧
      t.block = { s.block with hash := blockHash b, hasher := hasherAfter b s.block.hasher }) ∧
    (∃ b t, s.InputMayBe b ∧ exec .tryDecode s = .next t ∧
      t.block = match tryDecode b with
        | none => { s.block with tv := false }
        | some (h, n) =>
          { s.block with tv := true, thash := h, plen := BitVec.ofNat 64 n }) ∧
    (∃ b t, s.InputMayBe b ∧ exec .classify s = .next t ∧ t.block = s.block.afterClassify b)

/-- R205, U1, and the model's choice of log entry 1: on any state, written or not, ADD, REMOVE and RESIGN
write what CLASSIFY writes for some sequence that has every byte written; `PLEN` is `ILEN - 9` with a
trailer and `ILEN` without (R24); the image has the payload's length, and 9 more for ADD and RESIGN; each
copied byte that was written is the byte written; and the trailer of ADD and RESIGN is that of `HASH`, the
hash of some payload that has every byte written. -/
def Obligations.UnwrittenBytesAreFreeInImages : Prop :=
  ∀ (s : State) (i : Instr), i = .add ∨ i = .remove ∨ i = .resign →
    ∃ b t, s.InputMayBe b ∧ exec i s = .next t ∧
      t.block =
        { s.block.afterClassify b with
          hash := t.block.hash
          hasher := t.block.hasher
          olen := t.block.olen
          obuf := t.block.obuf } ∧
      (t.block.tv = true → 9 ≤ s.block.ilen.toNat ∧ t.block.plen = s.block.ilen - 9 ∧
        t.block.hash = (s.block.afterClassify b).hash) ∧
      (t.block.tv = false → t.block.plen = s.block.ilen) ∧
      t.block.olen = (if i = .remove then t.block.plen else t.block.plen + 9) ∧
      (∀ a v, a < t.block.plen.toNat → s.block.ibuf.read? a = some v →
        t.block.obuf.read? a = some v) ∧
      (∀ a, a < t.block.plen.toNat → (t.block.obuf.read? a).isSome) ∧
      (i ≠ .remove →
        (∃ p : List Byte, p.length = t.block.plen.toNat ∧
          (∀ a v, a < p.length → s.block.ibuf.read? a = some v → p[a]? = some v) ∧
          t.block.hash = blockHash p) ∧
        ∀ j, j < 9 →
          t.block.obuf.read? (t.block.plen.toNat + j) = (trailer t.block.hash)[j]?)

/-! ## Frames, in every state -/

/-- R36, the rows of HASH, TRYDECODE and CLASSIFY: which registers each may write, the rest of the
block unchanged, every byte of both buffers with it. A trailer found absent leaves `THASH`; TRYDECODE
then leaves `PLEN`, and CLASSIFY then leaves `HASH` and the hidden registers. -/
def Obligations.RegisterCommandsFrame : Prop :=
  ∀ (s t : State),
    (exec .hash s = .next t →
      t.block = { s.block with hash := t.block.hash, hasher := t.block.hasher }) ∧
    (exec .tryDecode s = .next t →
      t.block =
        { s.block with tv := t.block.tv, thash := t.block.thash, plen := t.block.plen } ∧
      (s.decodeTrailer = none → t.block = { s.block with tv := false })) ∧
    (exec .classify s = .next t →
      t.block =
        { s.block with
          tv := t.block.tv
          st := t.block.st
          plen := t.block.plen
          thash := t.block.thash
          hash := t.block.hash
          hasher := t.block.hasher } ∧
      (s.decodeTrailer = none →
        t.block = { s.block with tv := false, st := .unsigned, plen := s.block.ilen })) ∧
    ∀ i, i = Instr.hash ∨ i = Instr.tryDecode ∨ i = Instr.classify → exec i s = .next t →
      ∀ a, t.block.ibuf.read? a = s.block.ibuf.read? a ∧
        t.block.obuf.read? a = s.block.obuf.read? a

/-- R36, the rows of ENCODE, ADD, REMOVE and RESIGN: the registers each may write, the rest of the block
unchanged, `IBUF` with it, and every byte of `OBUF` outside the bytes stored: the nine from address 0
for ENCODE, the payload's `n` from address 0 for REMOVE, and `n + 9` for ADD and RESIGN, where `n` is
the payload length the classification phase determines. That the bytes beyond the image keep their values,
though no host can read them, is log entry 7. -/
def Obligations.ImageCommandsFrame : Prop :=
  ∀ (s t : State),
    (exec .encode s = .next t →
      t.block = { s.block with obuf := t.block.obuf, olen := t.block.olen } ∧
      ∀ a, 9 ≤ a → t.block.obuf.read? a = s.block.obuf.read? a) ∧
    (∀ i, i = Instr.add ∨ i = Instr.remove ∨ i = Instr.resign → exec i s = .next t →
      t.block =
        { s.block with
          tv := t.block.tv
          st := t.block.st
          plen := t.block.plen
          thash := t.block.thash
          hash := t.block.hash
          hasher := t.block.hasher
          obuf := t.block.obuf
          olen := t.block.olen } ∧
      (s.decodeTrailer = none → t.block.thash = s.block.thash) ∧
      ∀ a, s.classifyInput.block.plen.toNat + (if i = .remove then 0 else 9) ≤ a →
        t.block.obuf.read? a = s.block.obuf.read? a) ∧
    (exec .remove s = .next t → s.decodeTrailer = none →
      t.block.hash = s.block.hash ∧ t.block.hasher = s.block.hasher)

/-! ## The functions of the document -/

/-- R13: `LE64` and `LEbytes64`. -/
def Obligations.LittleEndianConversion : Prop :=
  (∀ s0 s1 s2 s3 s4 s5 s6 s7 : Byte,
    (le64 [s0, s1, s2, s3, s4, s5, s6, s7]).toNat =
      s0.toNat + s1.toNat * 2 ^ 8 + s2.toNat * 2 ^ 16 + s3.toNat * 2 ^ 24 + s4.toNat * 2 ^ 32 +
        s5.toNat * 2 ^ 40 + s6.toNat * 2 ^ 48 + s7.toNat * 2 ^ 56) ∧
  (∀ (v : Word) (j : Nat), j < 8 → (leBytes64 v)[j]? = some (v.extractLsb' (8 * j) 8)) ∧
  (∀ v : Word, (leBytes64 v).length = 8 ∧ le64 (leBytes64 v) = v) ∧
  ∀ s : List Byte, s.length = 8 → leBytes64 (le64 s) = s

/-- R105: the index mix is a shift by 10, with wraparound, and never touches bits 9:0. -/
def Obligations.IndexMixShiftsByTen : Prop :=
  (∀ i : Word, (mix i).toNat = i.toNat * 1024 % 2 ^ 64 ∧ mix i = i <<< 10 ∧
    (mix i).extractLsb' 0 10 = 0#10 ∧ (2 ^ 64 ≤ i.toNat * 1024 → 2 ^ 54 ≤ i.toNat)) ∧
  (∀ v i : Word, contribution v i = v ^^^ mix i ∧
    (contribution v i).extractLsb' 0 10 = v.extractLsb' 0 10) ∧
  mix 0#64 = 0#64 ∧ mix (BitVec.ofNat 64 (2 ^ 54)) = 0#64 ∧
  mix (BitVec.ofNat 64 (2 ^ 54 + 1)) = 1024#64

/-- R111 (b), (c): zero bytes within the last block do not change the hash; a whole zero block adds
`mix(m)`, so it changes the hash unless `m` is a multiple of 2^54. -/
def Obligations.HashIgnoresPaddingZeros : Prop :=
  (∀ (b : List Byte) (k : Nat), k ≤ padlen b.length →
    blockHash (b ++ List.replicate k 0#8) = blockHash b) ∧
  (∀ b : List Byte, blockHash (pad b) = blockHash b ∧ (pad b).length % 8 = 0) ∧
  ∀ (b : List Byte) (m : Nat), b.length = 8 * m →
    blockHash (b ++ List.replicate 8 0#8) = blockHash b + mix (BitVec.ofNat 64 m) ∧
    (blockHash (b ++ List.replicate 8 0#8) = blockHash b ↔ 2 ^ 54 ∣ m)

/-- R100: HASH is a function of the byte sequence in the buffer alone: not of any register, earlier
command, or byte of `IBUF` outside the sequence. -/
def Obligations.HashDependsOnBufferAlone : Prop :=
  ∀ (s s' : State) (b : List Byte), s.InputIs b → s'.InputIs b →
    ∃ t t', exec .hash s = .next t ∧ exec .hash s' = .next t' ∧
      t.block.hash = t'.block.hash ∧ t.block.hash = blockHash b

/-- R112: two sequences of one length that differ in exactly one byte have different hashes. -/
def Obligations.OneByteChangesHash : Prop :=
  ∀ (b : List Byte) (i : Nat) (v : Byte), i < b.length → b[i]? ≠ some v →
    blockHash (b.set i v) ≠ blockHash b

/-- R113: every u64 is the hash of some input, and the explicit collisions. -/
def Obligations.HashIsNotInjective : Prop :=
  (∀ v : Word, blockHash (leBytes64 v) = v) ∧
  (∀ (b : List Byte) (m : Nat), b.length = 8 * m →
    blockHash (b ++ leBytes64 (mix (BitVec.ofNat 64 m))) = blockHash b) ∧
  blockHash [0x01#8, 0x02#8, 0x03#8, 0x04#8, 0x05#8, 0x06#8, 0x07#8, 0x08#8, 0x00#8, 0x04#8] =
    0x0807060504030201#64 ∧
  blockHash [0x01#8, 0x02#8, 0x03#8, 0x04#8, 0x05#8, 0x06#8, 0x07#8, 0x08#8] =
    0x0807060504030201#64 ∧
  blockHash ([0x01#8] ++ List.replicate 15 0#8) = 0x0000000000000401#64 ∧
  blockHash (List.replicate 8 0#8 ++ [0x01#8] ++ List.replicate 7 0#8) = 0x0000000000000401#64

/-- R126: the codec round trip, for every payload and every hash. -/
def Obligations.TrailerRoundTrip : Prop :=
  ∀ (p : List Byte) (h : Word), tryDecode (p ++ trailer h) = some (h, p.length)

/-- R127: a buffer decodes as absent when it is shorter than 9 bytes or its last byte is not 0xFF, and
as present otherwise, whatever its other bytes. -/
def Obligations.DecodeBoundaryAndFlagGate : Prop :=
  (∀ b : List Byte, b.length ≤ 8 → tryDecode b = none) ∧
  (∀ (b : List Byte) (v : Byte), 9 ≤ b.length → b.getLast? = some v → v ≠ 0xFF#8 →
    tryDecode b = none) ∧
  ∀ b : List Byte, 9 ≤ b.length → b.getLast? = some 0xFF#8 →
    ∃ h, tryDecode b = some (h, b.length - 9)

/-- R146: the same boundary and gate for the classification; `classify([])` is `Unsigned`. -/
def Obligations.ClassifyBoundaryAndFlagGate : Prop :=
  (∀ b : List Byte, b.length ≤ 8 → classify b = (.unsigned, b)) ∧
  classify [] = (.unsigned, []) ∧
  ∀ (b : List Byte) (v : Byte), 9 ≤ b.length → b.getLast? = some v → v ≠ 0xFF#8 →
    classify b = (.unsigned, b)

/-- R142: what the three statuses mean, and the payload in each case. -/
def Obligations.ClassificationMeaning : Prop :=
  ∀ (b : List Byte),
    ((classify b).1 = .unsigned ↔ trailerShaped b = false) ∧
    ((classify b).1 = .signed ↔ trailerShaped b = true ∧
      leBytes64 (blockHash (b.take (b.length - 9))) = slice b (b.length - 9) (b.length - 1)) ∧
    ((classify b).1 = .changedData ↔ trailerShaped b = true ∧
      leBytes64 (blockHash (b.take (b.length - 9))) ≠ slice b (b.length - 9) (b.length - 1)) ∧
    (classify b).2 = if trailerShaped b then b.take (b.length - 9) else b

/-- R145: classifying the payload again gives `Unsigned` exactly when it is not trailer-shaped, and
then the same payload; one classification strips at most one trailer. -/
def Obligations.ReclassifyingPayload : Prop :=
  ∀ (b : List Byte),
    ((classify (classify b).2).1 = .unsigned ↔ trailerShaped (classify b).2 = false) ∧
    (trailerShaped (classify b).2 = false → (classify (classify b).2).2 = (classify b).2) ∧
    ((classify b).2 = b ∨ (classify b).2.length + 9 = b.length)

/-- R147: any change of one payload byte of a signed file is detected; a changed flag byte gives
`Unsigned`, a changed hash byte `ChangedData`; two changed bytes may go undetected. -/
def Obligations.TamperDetection : Prop :=
  (∀ (p : List Byte) (i : Nat) (v : Byte), i < p.length → p[i]? ≠ some v →
    classify ((p ++ trailer (blockHash p)).set i v) = (.changedData, p.set i v)) ∧
  (∀ (p : List Byte) (v : Byte), v ≠ 0xFF#8 →
    classify ((p ++ trailer (blockHash p)).set (p.length + 8) v) =
      (.unsigned, (p ++ trailer (blockHash p)).set (p.length + 8) v)) ∧
  (∀ (p : List Byte) (j : Nat) (v : Byte), j < 8 → (trailer (blockHash p))[j]? ≠ some v →
    classify ((p ++ trailer (blockHash p)).set (p.length + j) v) = (.changedData, p)) ∧
  ∃ p q : List Byte, p.length = q.length ∧ p ≠ q ∧
    classify (q ++ trailer (blockHash p)) = (.signed, q)

/-- R148: sign-then-classify, for every payload. -/
def Obligations.SignThenClassify : Prop :=
  ∀ p : List Byte, classify (p ++ trailer (blockHash p)) = (.signed, p)

/-! ## Properties of the commands -/

/-- R27: after CLASSIFY, ADD, REMOVE or RESIGN, `TV = 1` exactly when `ST` is 1 or 2, in every
state. -/
def Obligations.TrailerValidAgreesWithStatus : Prop :=
  ∀ (s : State) (i : Instr), i = .classify ∨ i = .add ∨ i = .remove ∨ i = .resign →
    ∃ t, exec i s = .next t ∧ (t.block.tv = true ↔ t.block.st = .signed ∨ t.block.st = .changedData)

/-- R163: on a `Signed` input the image of ADD is the input: it never refuses and never
double-wraps. -/
def Obligations.AddOnSignedInputReturnsIt : Prop :=
  ∀ (s : State) (p : List Byte), s.InputIs (p ++ trailer (blockHash p)) →
    ∃ t, exec .add s = .next t ∧ t.ImageIs (p ++ trailer (blockHash p)) ∧ t.block.st = .signed

/-- R170: the two limitations of ADD. (a) Trailer-shaped data loses its last 9 bytes. (b) Whatever is not
trailer-shaped is signed again whole; so is a file with a hash field in it that no longer ends in 0xFF,
the old trailer buried in the payload: its flag byte changed (`y` empty), or bytes behind the trailer. -/
def Obligations.AddKeepsKnownLimitations : Prop :=
  (∀ (s : State) (b : List Byte), s.InputIs b → trailerShaped b = true →
    ∃ t, exec .add s = .next t ∧
      t.ImageIs (b.take (b.length - 9) ++ trailer (blockHash (b.take (b.length - 9))))) ∧
  (∀ (s : State) (b : List Byte), s.InputIs b → trailerShaped b = false → b.length + 9 < 2 ^ 64 →
    ∃ t, exec .add s = .next t ∧ t.block.st = .unsigned ∧
      t.ImageIs (b ++ trailer (blockHash b))) ∧
  ∀ (s : State) (p y : List Byte) (h : Word) (x : Byte), x ≠ 0xFF#8 →
    s.InputIs (p ++ leBytes64 h ++ y ++ [x]) → (p ++ leBytes64 h ++ y ++ [x]).length + 9 < 2 ^ 64 →
    ∃ t, exec .add s = .next t ∧ t.block.st = .unsigned ∧
      t.ImageIs (p ++ leBytes64 h ++ y ++ [x] ++ trailer (blockHash (p ++ leBytes64 h ++ y ++ [x])))

/-- R171: issuing the same command twice with no intervening write leaves the same state of the block as
issuing it once. -/
def Obligations.ReplayKeepsState : Prop :=
  ∀ (s : State) (b : List Byte), s.InputIs b → s.block.obuf.wf → ∀ i : Instr,
    ∃ t u, exec i s = .next t ∧ exec i t = .next u ∧ u.block = t.block ∧
      u.responses = t.responses ++ [.ok]

/-- R32, R102: bytes at or above `ILEN` never influence a result: two states that differ only in them
behave alike. Where a byte below `ILEN` was never written, R205 and U1 leave the results open; that the
two states then still agree, both taking the free values of one draw counter, is the model's choice (log
entries 1 and 2). -/
def Obligations.BytesBeyondIlenAreIrrelevant : Prop :=
  ∀ (s : State) (m : Memory),
    (∀ a, a < s.block.ilen.toNat → m.read? a = s.block.ibuf.read? a) → ∀ i : Instr,
    ∃ t, exec i s = .next t ∧
      exec i (s.setBlock (s.block.setIbuf m)) = .next (t.setBlock (t.block.setIbuf m))

/-! ## Invariant and reset -/

/-- The invariant holds after reset (R28, R29, R24, R33). -/
def Obligations.ResetMeetsInvariant : Prop :=
  State.reset.Inv

/-- R24, R28, R29, R33: every step keeps `ILEN <= CAP`, `PLEN <= CAP`, `OLEN <= CAP + 9`, both buffers
within their size and in canonical form, and every byte of the image readable. -/
def Obligations.StepKeepsInvariant : Prop :=
  ∀ (s t : State), s.Inv → step s = .next t → t.Inv

/-- R37: the values the spec gives for reset; the hidden registers are not among them. -/
def Obligations.ResetValues : Prop :=
  State.reset.block.statusByte = 0x00#8 ∧ State.reset.block.st = .unsigned ∧
  State.reset.block.tv = false ∧ State.reset.block.ilen = 0 ∧ State.reset.block.olen = 0 ∧
  State.reset.block.hin = 0 ∧ State.reset.block.hash = 0 ∧ State.reset.block.thash = 0 ∧
  State.reset.block.plen = 0

/-- R200, R202: the reset input, in every state: the registers to their reset values, no response, and
no byte of either buffer readable after it. -/
def Obligations.ResetInputClearsRegisters : Prop :=
  ∀ (s : State) (rest : List HostEvent),
    ∃ t, step (s.setScript (.reset :: rest)) = .next t ∧ t.script = rest ∧
      t.responses = s.responses ∧ t.cap = s.cap ∧
      t.block.statusByte = 0x00#8 ∧ t.block.ilen = 0 ∧ t.block.olen = 0 ∧ t.block.hin = 0 ∧
      t.block.hash = 0 ∧ t.block.thash = 0 ∧ t.block.plen = 0 ∧
      ∀ a more,
        step (t.setScript (.rdi a :: more)) = .next ((t.setScript more).respondErr .address) ∧
        step (t.setScript (.rdo a :: more)) = .next ((t.setScript more).respondErr .address)

/-- R201: what each command gives right after reset, where the buffer is the empty sequence. -/
def Obligations.CommandsRightAfterReset : Prop :=
  ∀ (s : State), s.block = Block.reset →
    (∃ t, exec .hash s = .next t ∧ t.block.hash = 0) ∧
    (∃ t, exec .tryDecode s = .next t ∧ t.block.tv = false) ∧
    (∃ t, exec .classify s = .next t ∧ t.block.tv = false ∧ t.block.st = .unsigned) ∧
    (∃ t, exec .add s = .next t ∧ t.ImageIs (List.replicate 8 0x00#8 ++ [0xFF#8])) ∧
    (∃ t, exec .resign s = .next t ∧ t.ImageIs (List.replicate 8 0x00#8 ++ [0xFF#8])) ∧
    (∃ t, exec .remove s = .next t ∧ t.ImageIs []) ∧
    (∃ t, exec .encode s = .next t ∧ t.ImageIs (List.replicate 8 0x00#8 ++ [0xFF#8]))

/-! ## Sequences of transactions, for every byte sequence and every starting state -/

/-- R91 `LOAD`: after it `IBUF[0..ILEN)` is the sequence loaded, each transaction responded `OK`, and
nothing else of the block has changed, bytes of `IBUF` beyond it included. -/
def Obligations.LoadFillsInputBuffer : Prop :=
  ∀ (s : State) (p : List Byte), p.length ≤ s.cap.val →
    ∃ (t : State) (m : Memory), runScript (Script.load p) s = .next t ∧ t.InputIs p ∧
      t.block = { s.block with ibuf := m, ilen := BitVec.ofNat 64 p.length } ∧
      (∀ a, p.length ≤ a → m.read? a = s.block.ibuf.read? a) ∧
      t.responses = s.responses ++ List.replicate (p.length + 1) .ok

/-- R91 `DUMP`: it returns the length of the output image and then its bytes, and changes nothing. -/
def Obligations.DumpReturnsImage : Prop :=
  ∀ (s : State) (b : List Byte), s.ImageIs b →
    runScript (Script.dump b.length) s = .next ((s.setScript []).setResponses
      (s.responses ++ .okWord (BitVec.ofNat 64 b.length) :: b.map .okByte))

/-- R168: `LOAD p; ADD; FEED; CLASSIFY` ends `Signed` with the payload view `classify(p).payload`, for
every `p` whose image can be fed back; the responses show that the bytes fed are the bytes dumped. -/
def Obligations.RoundTripThroughCommands : Prop :=
  ∀ (s : State) (p : List Byte), p.length + 9 ≤ s.cap.val →
    ∃ t, runScript (Script.load p ++ [Script.command 0x05#8] ++
        Script.feed (addOp (classify p)) ++ [Script.command 0x04#8]) s = .next t ∧
      t.block.st = .signed ∧ t.PayloadIs (classify p).2 ∧
      (trailerShaped p = false → t.PayloadIs p) ∧
      t.responses = s.responses ++ List.replicate (p.length + 2) .ok ++
        .okWord (BitVec.ofNat 64 (addOp (classify p)).length) ::
          (addOp (classify p)).map .okByte ++
        List.replicate ((addOp (classify p)).length + 2) .ok

/-- R169: `LOAD p; ADD; FEED; REMOVE; FEED; CLASSIFY` ends with the payload `p'` of `p` in the input
buffer, `Unsigned` exactly when `p'` is not trailer-shaped, and the payload view is then `p'`; the
responses show that the bytes fed are the bytes each DUMP answered: the image ADD wrote, and the image
REMOVE wrote. -/
def Obligations.RemoveUndoesAdd : Prop :=
  ∀ (s : State) (p : List Byte), p.length + 9 ≤ s.cap.val →
    ∃ t, runScript (Script.load p ++ [Script.command 0x05#8] ++
        Script.feed (addOp (classify p)) ++ [Script.command 0x06#8] ++
        Script.feed (classify p).2 ++ [Script.command 0x04#8]) s = .next t ∧
      t.InputIs (classify p).2 ∧
      (t.block.st = .unsigned ↔ trailerShaped (classify p).2 = false) ∧
      (trailerShaped (classify p).2 = false → t.PayloadIs (classify p).2) ∧
      t.responses = s.responses ++ List.replicate (p.length + 2) .ok ++
        .okWord (BitVec.ofNat 64 (addOp (classify p)).length) ::
          (addOp (classify p)).map .okByte ++
        List.replicate ((addOp (classify p)).length + 2) .ok ++
        .okWord (BitVec.ofNat 64 (classify p).2.length) :: (classify p).2.map .okByte ++
        List.replicate ((classify p).2.length + 2) .ok
end

