-- ==== Sys2Proof/Laws/ByteOrder.lean ====
section
/-! SUPPORT. `LE64` and `LEbytes64` are inverse to each other (spec/00_scope.md R13). -/

namespace Sys2Proof.Machine

@[simp] theorem leBytes64_length (v : Word) : (leBytes64 v).length = 8 := by
  rw [leBytes64, List.length_map, List.length_range]

@[simp] theorem trailer_length (h : Word) : (trailer h).length = 9 := by simp [trailer]

theorem leByte_toNat (v : Word) (j : Nat) : (leByte v j).toNat = v.toNat / 256 ^ j % 256 := by
  simp only [leByte, BitVec.extractLsb'_toNat, Nat.shiftRight_eq_div_pow, Nat.pow_mul]

theorem leNat_lt (s : List Byte) : leNat s < 256 ^ s.length := by
  induction s with
  | nil => simp [leNat]
  | cons b s ih =>
    have := b.isLt
    simp only [leNat, List.length_cons, pow_succ]
    omega

theorem leNat_digits (n k : Nat) (f : Nat → Byte) (i : Nat)
    (hf : ∀ j, (f (i + j)).toNat = n / 256 ^ (i + j) % 256) :
    leNat ((List.range' i k).map f) = n / 256 ^ i % 256 ^ k := by
  induction k generalizing i with
  | zero => simp [leNat, Nat.mod_one]
  | succ k ih =>
    rw [List.range'_succ, List.map_cons, leNat, ih (i + 1) (fun j => by
      rw [show i + 1 + j = i + (1 + j) by omega]; exact hf (1 + j))]
    have h0 := hf 0
    rw [Nat.add_zero] at h0
    rw [h0, pow_succ (256 : Nat) k, Nat.mul_comm (256 ^ k) 256, Nat.mod_mul, pow_succ,
      Nat.div_div_eq_div_mul]

/-- R13: `LE64(LEbytes64(v)) = v`. -/
theorem le64_leBytes64 (v : Word) : le64 (leBytes64 v) = v := by
  have h := leNat_digits v.toNat 8 (leByte v) 0 (fun j => by simpa using leByte_toNat v j)
  rw [← List.range_eq_range'] at h
  apply BitVec.eq_of_toNat_eq
  rw [le64, leBytes64, h, BitVec.toNat_ofNat]
  have := v.isLt
  norm_num
  exact this

theorem leNat_div_pow (s : List Byte) (j : Nat) (hj : j < s.length) :
    leNat s / 256 ^ j % 256 = s[j].toNat := by
  induction s generalizing j with
  | nil => simp at hj
  | cons b s ih =>
    have hb := b.isLt
    cases j with
    | zero =>
      simp only [leNat, pow_zero, Nat.div_one, List.getElem_cons_zero]
      omega
    | succ j =>
      have hj' : j < s.length := by simpa using hj
      rw [leNat, pow_succ, Nat.mul_comm (256 ^ j), ← Nat.div_div_eq_div_mul,
        show (b.toNat + 256 * leNat s) / 256 = leNat s by omega, ih j hj']
      rfl

theorem le64_toNat {s : List Byte} (h : s.length = 8) : (le64 s).toNat = leNat s := by
  have := leNat_lt s
  rw [h] at this
  rw [le64, BitVec.toNat_ofNat, Nat.mod_eq_of_lt (by norm_num at this ⊢; omega)]

/-- R13: `LEbytes64(LE64(s)) = s` for a sequence of 8 bytes. -/
theorem leBytes64_le64 {s : List Byte} (h : s.length = 8) : leBytes64 (le64 s) = s := by
  apply List.ext_getElem (by simp [h])
  intro j _ hj
  simp only [leBytes64, List.getElem_map, List.getElem_range]
  apply BitVec.eq_of_toNat_eq
  rw [leByte_toNat, le64_toNat h, leNat_div_pow s j hj]

theorem le64_injective {s t : List Byte} (hs : s.length = 8) (ht : t.length = 8)
    (h : le64 s = le64 t) : s = t := by
  rw [← leBytes64_le64 hs, ← leBytes64_le64 ht, h]

end Sys2Proof.Machine
end

