-- ==== Sys2Proof/Laws/Memory.lean ====
section
/-! SUPPORT. What the buffer operations do: a read after a write, the canonical form kept, and memories
that read alike are equal. -/

namespace Sys2Proof.Machine

@[simp] theorem Memory.read?_nil (a : Nat) : Memory.read? [] a = none := rfl

theorem Memory.read?_cons (k : Nat) (v : Byte) (m : Memory) (a : Nat) :
    Memory.read? ((k, v) :: m) a = if k = a then some v else Memory.read? m a := rfl

theorem Memory.read?_write (m : Memory) (a : Nat) (v : Byte) (x : Nat) :
    (m.write a v).read? x = if x = a then some v else m.read? x := by
  induction m with
  | nil => simp [Memory.write, Memory.read?_cons, eq_comm]
  | cons c m ih =>
    obtain ⟨k, w⟩ := c
    simp only [Memory.write]
    by_cases h1 : a < k
    · rw [if_pos h1, Memory.read?_cons]
      simp only [eq_comm]
    · rw [if_neg h1]
      by_cases h2 : a = k
      · rw [if_pos h2, Memory.read?_cons, Memory.read?_cons, ← h2]
        simp only [eq_comm]
        split <;> rfl
      · rw [if_neg h2, Memory.read?_cons, ih, Memory.read?_cons]
        by_cases h3 : k = x
        · rw [if_pos h3, if_neg (by omega), if_pos h3]
        · rw [if_neg h3, if_neg h3]

theorem Memory.read?_write_same (m : Memory) (a : Nat) (v : Byte) :
    (m.write a v).read? a = some v := by simp [Memory.read?_write]

theorem Memory.read?_write_other (m : Memory) {a x : Nat} (v : Byte) (h : x ≠ a) :
    (m.write a v).read? x = m.read? x := by simp [Memory.read?_write, h]

@[simp] theorem Memory.writeBytes_nil (m : Memory) (a : Nat) : m.writeBytes a [] = m := by
  cases m <;> rfl

@[simp] theorem Memory.writeBytes_cons (m : Memory) (a : Nat) (v : Byte) (s : List Byte) :
    m.writeBytes a (v :: s) = (m.write a v).writeBytes (a + 1) s := by cases m <;> rfl

/-- A block of bytes written is read back, and every other address reads as before. -/
theorem Memory.read?_writeBytes (m : Memory) (a : Nat) (s : List Byte) (x : Nat) :
    (m.writeBytes a s).read? x =
      if a ≤ x ∧ x < a + s.length then s[x - a]? else m.read? x := by
  induction s generalizing m a with
  | nil => simp
  | cons v s ih =>
    rw [Memory.writeBytes_cons, ih, Memory.read?_write]
    by_cases h : x = a
    · subst h
      simp
    · by_cases h' : a + 1 ≤ x ∧ x < a + 1 + s.length
      · rw [if_pos h', if_pos (by simp only [List.length_cons]; omega)]
        obtain ⟨d, rfl⟩ : ∃ d, x = a + 1 + d := ⟨x - (a + 1), by omega⟩
        rw [show a + 1 + d - a = d + 1 from by omega, show a + 1 + d - (a + 1) = d from by omega]
        simp
      · rw [if_neg h', if_neg h, if_neg (by simp only [List.length_cons]; omega)]

theorem Memory.writeBytes_append (m : Memory) (a : Nat) (s t : List Byte) :
    m.writeBytes a (s ++ t) = (m.writeBytes a s).writeBytes (a + s.length) t := by
  induction s generalizing m a with
  | nil => simp
  | cons v s ih =>
    rw [List.cons_append, Memory.writeBytes_cons, ih, Memory.writeBytes_cons, List.length_cons,
      show a + 1 + s.length = a + (s.length + 1) from by omega]

theorem Memory.mem_write {m : Memory} {a : Nat} {v : Byte} {c : Host.Cell}
    (h : c ∈ m.write a v) : c = (a, v) ∨ c ∈ m := by
  induction m with
  | nil => simpa [Memory.write] using h
  | cons d m ih =>
    obtain ⟨k, w⟩ := d
    simp only [Memory.write] at h
    split_ifs at h <;> simp only [List.mem_cons] at h ⊢
    · tauto
    · tauto
    · rcases h with h | h
      · tauto
      · rcases ih h with h | h <;> tauto

theorem Memory.wf_write {m : Memory} (h : m.wf) (a : Nat) (v : Byte) : (m.write a v).wf := by
  induction m with
  | nil => simp [Memory.write]
  | cons d m ih =>
    obtain ⟨k, w⟩ := d
    obtain ⟨hk, hm⟩ := List.pairwise_cons.mp h
    simp only [Memory.write]
    split_ifs with h1 h2
    · refine List.pairwise_cons.mpr ⟨fun c hc => ?_, h⟩
      rcases List.mem_cons.mp hc with rfl | hc
      · exact h1
      · exact lt_trans h1 (hk c hc)
    · subst h2
      exact List.pairwise_cons.mpr ⟨hk, hm⟩
    · refine List.pairwise_cons.mpr ⟨fun c hc => ?_, ih hm⟩
      rcases Memory.mem_write hc with rfl | hc
      · exact lt_of_le_of_ne (not_lt.mp h1) (Ne.symm h2)
      · exact hk c hc

/-- Every memory operation keeps the canonical form. -/
theorem Memory.wf_writeBytes {m : Memory} (h : m.wf) (a : Nat) (s : List Byte) :
    (m.writeBytes a s).wf := by
  induction s generalizing m a with
  | nil => simpa using h
  | cons v s ih => exact (Memory.writeBytes_cons m a v s) ▸ ih (Memory.wf_write h a v) (a + 1)

theorem Memory.lt_of_mem_writeBytes {m : Memory} {a n : Nat} {s : List Byte}
    (hm : ∀ c ∈ m, c.1 < n) (hs : a + s.length ≤ n) :
    ∀ c ∈ m.writeBytes a s, c.1 < n := by
  induction s generalizing m a with
  | nil => simpa using hm
  | cons v s ih =>
    rw [Memory.writeBytes_cons]
    rw [List.length_cons] at hs
    refine ih (fun c hc => ?_) (by omega)
    rcases Memory.mem_write hc with rfl | hc
    · show a < n; omega
    · exact hm c hc

theorem Memory.read?_eq_none_of_lt {m : Memory} {a : Nat} (h : ∀ c ∈ m, a < c.1) :
    m.read? a = none := by
  induction m with
  | nil => rfl
  | cons d m ih =>
    obtain ⟨k, w⟩ := d
    have hk := h (k, w) List.mem_cons_self
    rw [Memory.read?_cons, if_neg (by simp only at hk; omega),
      ih fun c hc => h c (List.mem_cons_of_mem _ hc)]

/-- Two memories in canonical form that read alike at every address are the same data. -/
theorem Memory.ext_of_wf {m n : Memory} (hm : m.wf) (hn : n.wf)
    (h : ∀ a, m.read? a = n.read? a) : m = n := by
  induction m generalizing n with
  | nil =>
    cases n with
    | nil => rfl
    | cons d n =>
      have := h d.1
      rw [Memory.read?_cons, if_pos rfl] at this
      cases this
  | cons c m ih =>
    obtain ⟨k, v⟩ := c
    obtain ⟨hk, hm'⟩ := List.pairwise_cons.mp hm
    cases n with
    | nil =>
      have := h k
      rw [Memory.read?_cons, if_pos rfl] at this
      cases this
    | cons d n =>
      obtain ⟨l, w⟩ := d
      obtain ⟨hl, hn'⟩ := List.pairwise_cons.mp hn
      have hkl : k = l := by
        rcases lt_trichotomy k l with hlt | heq | hgt
        · have h1 := h k
          rw [Memory.read?_cons, if_pos rfl, Memory.read?_cons, if_neg (by omega),
            Memory.read?_eq_none_of_lt fun c hc => lt_trans hlt (hl c hc)] at h1
          cases h1
        · exact heq
        · have h1 := h l
          rw [Memory.read?_cons, if_neg (by omega),
            Memory.read?_eq_none_of_lt (fun c hc => lt_trans hgt (hk c hc)),
            Memory.read?_cons, if_pos rfl] at h1
          cases h1
      subst hkl
      have hv : v = w := by
        have h1 := h k
        rw [Memory.read?_cons, if_pos rfl, Memory.read?_cons, if_pos rfl] at h1
        exact Option.some.inj h1
      subst hv
      congr 1
      refine ih hm' hn' fun a => ?_
      by_cases ha : k = a
      · subst ha
        rw [Memory.read?_eq_none_of_lt hk, Memory.read?_eq_none_of_lt hl]
      · have h1 := h a
        rwa [Memory.read?_cons, if_neg ha, Memory.read?_cons, if_neg ha] at h1

/-- Writing the same bytes again changes nothing (R171). -/
theorem Memory.writeBytes_again {m : Memory} (h : m.wf) (a : Nat) (s : List Byte) :
    (m.writeBytes a s).writeBytes a s = m.writeBytes a s := by
  refine Memory.ext_of_wf (Memory.wf_writeBytes (Memory.wf_writeBytes h _ _) _ _)
    (Memory.wf_writeBytes h _ _) fun x => ?_
  simp only [Memory.read?_writeBytes]
  split_ifs <;> rfl

end Sys2Proof.Machine
end

