-- ==== Sys2Proof/Laws/State.lean ====
section
/-! SUPPORT. One lemma per field per update of `Block` and `State`, so that no proof unfolds a record
update; and a block or state written back field by field. -/

namespace Sys2Proof.Machine

/-! ## `Block.setHin` -/

@[simp] theorem Block.setHin_hin (b : Block) (v) : (b.setHin v).hin = v := rfl
@[simp] theorem Block.setHin_hash (b : Block) (v) : (b.setHin v).hash = b.hash := rfl
@[simp] theorem Block.setHin_thash (b : Block) (v) : (b.setHin v).thash = b.thash := rfl
@[simp] theorem Block.setHin_plen (b : Block) (v) : (b.setHin v).plen = b.plen := rfl
@[simp] theorem Block.setHin_st (b : Block) (v) : (b.setHin v).st = b.st := rfl
@[simp] theorem Block.setHin_tv (b : Block) (v) : (b.setHin v).tv = b.tv := rfl
@[simp] theorem Block.setHin_ilen (b : Block) (v) : (b.setHin v).ilen = b.ilen := rfl
@[simp] theorem Block.setHin_olen (b : Block) (v) : (b.setHin v).olen = b.olen := rfl
@[simp] theorem Block.setHin_ibuf (b : Block) (v) : (b.setHin v).ibuf = b.ibuf := rfl
@[simp] theorem Block.setHin_obuf (b : Block) (v) : (b.setHin v).obuf = b.obuf := rfl
@[simp] theorem Block.setHin_hasher (b : Block) (v) : (b.setHin v).hasher = b.hasher := rfl
@[simp] theorem Block.setHin_setHin (b : Block) (v w) : (b.setHin v).setHin w = b.setHin w := rfl
@[simp] theorem Block.setHin_self (b : Block) : b.setHin b.hin = b := rfl

/-! ## `Block.setHash` -/

@[simp] theorem Block.setHash_hin (b : Block) (v) : (b.setHash v).hin = b.hin := rfl
@[simp] theorem Block.setHash_hash (b : Block) (v) : (b.setHash v).hash = v := rfl
@[simp] theorem Block.setHash_thash (b : Block) (v) : (b.setHash v).thash = b.thash := rfl
@[simp] theorem Block.setHash_plen (b : Block) (v) : (b.setHash v).plen = b.plen := rfl
@[simp] theorem Block.setHash_st (b : Block) (v) : (b.setHash v).st = b.st := rfl
@[simp] theorem Block.setHash_tv (b : Block) (v) : (b.setHash v).tv = b.tv := rfl
@[simp] theorem Block.setHash_ilen (b : Block) (v) : (b.setHash v).ilen = b.ilen := rfl
@[simp] theorem Block.setHash_olen (b : Block) (v) : (b.setHash v).olen = b.olen := rfl
@[simp] theorem Block.setHash_ibuf (b : Block) (v) : (b.setHash v).ibuf = b.ibuf := rfl
@[simp] theorem Block.setHash_obuf (b : Block) (v) : (b.setHash v).obuf = b.obuf := rfl
@[simp] theorem Block.setHash_hasher (b : Block) (v) : (b.setHash v).hasher = b.hasher := rfl
@[simp] theorem Block.setHash_setHash (b : Block) (v w) : (b.setHash v).setHash w = b.setHash w := rfl
@[simp] theorem Block.setHash_self (b : Block) : b.setHash b.hash = b := rfl

/-! ## `Block.setThash` -/

@[simp] theorem Block.setThash_hin (b : Block) (v) : (b.setThash v).hin = b.hin := rfl
@[simp] theorem Block.setThash_hash (b : Block) (v) : (b.setThash v).hash = b.hash := rfl
@[simp] theorem Block.setThash_thash (b : Block) (v) : (b.setThash v).thash = v := rfl
@[simp] theorem Block.setThash_plen (b : Block) (v) : (b.setThash v).plen = b.plen := rfl
@[simp] theorem Block.setThash_st (b : Block) (v) : (b.setThash v).st = b.st := rfl
@[simp] theorem Block.setThash_tv (b : Block) (v) : (b.setThash v).tv = b.tv := rfl
@[simp] theorem Block.setThash_ilen (b : Block) (v) : (b.setThash v).ilen = b.ilen := rfl
@[simp] theorem Block.setThash_olen (b : Block) (v) : (b.setThash v).olen = b.olen := rfl
@[simp] theorem Block.setThash_ibuf (b : Block) (v) : (b.setThash v).ibuf = b.ibuf := rfl
@[simp] theorem Block.setThash_obuf (b : Block) (v) : (b.setThash v).obuf = b.obuf := rfl
@[simp] theorem Block.setThash_hasher (b : Block) (v) : (b.setThash v).hasher = b.hasher := rfl
@[simp] theorem Block.setThash_setThash (b : Block) (v w) : (b.setThash v).setThash w = b.setThash w := rfl
@[simp] theorem Block.setThash_self (b : Block) : b.setThash b.thash = b := rfl

/-! ## `Block.setPlen` -/

@[simp] theorem Block.setPlen_hin (b : Block) (v) : (b.setPlen v).hin = b.hin := rfl
@[simp] theorem Block.setPlen_hash (b : Block) (v) : (b.setPlen v).hash = b.hash := rfl
@[simp] theorem Block.setPlen_thash (b : Block) (v) : (b.setPlen v).thash = b.thash := rfl
@[simp] theorem Block.setPlen_plen (b : Block) (v) : (b.setPlen v).plen = v := rfl
@[simp] theorem Block.setPlen_st (b : Block) (v) : (b.setPlen v).st = b.st := rfl
@[simp] theorem Block.setPlen_tv (b : Block) (v) : (b.setPlen v).tv = b.tv := rfl
@[simp] theorem Block.setPlen_ilen (b : Block) (v) : (b.setPlen v).ilen = b.ilen := rfl
@[simp] theorem Block.setPlen_olen (b : Block) (v) : (b.setPlen v).olen = b.olen := rfl
@[simp] theorem Block.setPlen_ibuf (b : Block) (v) : (b.setPlen v).ibuf = b.ibuf := rfl
@[simp] theorem Block.setPlen_obuf (b : Block) (v) : (b.setPlen v).obuf = b.obuf := rfl
@[simp] theorem Block.setPlen_hasher (b : Block) (v) : (b.setPlen v).hasher = b.hasher := rfl
@[simp] theorem Block.setPlen_setPlen (b : Block) (v w) : (b.setPlen v).setPlen w = b.setPlen w := rfl
@[simp] theorem Block.setPlen_self (b : Block) : b.setPlen b.plen = b := rfl

/-! ## `Block.setSt` -/

@[simp] theorem Block.setSt_hin (b : Block) (v) : (b.setSt v).hin = b.hin := rfl
@[simp] theorem Block.setSt_hash (b : Block) (v) : (b.setSt v).hash = b.hash := rfl
@[simp] theorem Block.setSt_thash (b : Block) (v) : (b.setSt v).thash = b.thash := rfl
@[simp] theorem Block.setSt_plen (b : Block) (v) : (b.setSt v).plen = b.plen := rfl
@[simp] theorem Block.setSt_st (b : Block) (v) : (b.setSt v).st = v := rfl
@[simp] theorem Block.setSt_tv (b : Block) (v) : (b.setSt v).tv = b.tv := rfl
@[simp] theorem Block.setSt_ilen (b : Block) (v) : (b.setSt v).ilen = b.ilen := rfl
@[simp] theorem Block.setSt_olen (b : Block) (v) : (b.setSt v).olen = b.olen := rfl
@[simp] theorem Block.setSt_ibuf (b : Block) (v) : (b.setSt v).ibuf = b.ibuf := rfl
@[simp] theorem Block.setSt_obuf (b : Block) (v) : (b.setSt v).obuf = b.obuf := rfl
@[simp] theorem Block.setSt_hasher (b : Block) (v) : (b.setSt v).hasher = b.hasher := rfl
@[simp] theorem Block.setSt_setSt (b : Block) (v w) : (b.setSt v).setSt w = b.setSt w := rfl
@[simp] theorem Block.setSt_self (b : Block) : b.setSt b.st = b := rfl

/-! ## `Block.setTv` -/

@[simp] theorem Block.setTv_hin (b : Block) (v) : (b.setTv v).hin = b.hin := rfl
@[simp] theorem Block.setTv_hash (b : Block) (v) : (b.setTv v).hash = b.hash := rfl
@[simp] theorem Block.setTv_thash (b : Block) (v) : (b.setTv v).thash = b.thash := rfl
@[simp] theorem Block.setTv_plen (b : Block) (v) : (b.setTv v).plen = b.plen := rfl
@[simp] theorem Block.setTv_st (b : Block) (v) : (b.setTv v).st = b.st := rfl
@[simp] theorem Block.setTv_tv (b : Block) (v) : (b.setTv v).tv = v := rfl
@[simp] theorem Block.setTv_ilen (b : Block) (v) : (b.setTv v).ilen = b.ilen := rfl
@[simp] theorem Block.setTv_olen (b : Block) (v) : (b.setTv v).olen = b.olen := rfl
@[simp] theorem Block.setTv_ibuf (b : Block) (v) : (b.setTv v).ibuf = b.ibuf := rfl
@[simp] theorem Block.setTv_obuf (b : Block) (v) : (b.setTv v).obuf = b.obuf := rfl
@[simp] theorem Block.setTv_hasher (b : Block) (v) : (b.setTv v).hasher = b.hasher := rfl
@[simp] theorem Block.setTv_setTv (b : Block) (v w) : (b.setTv v).setTv w = b.setTv w := rfl
@[simp] theorem Block.setTv_self (b : Block) : b.setTv b.tv = b := rfl

/-! ## `Block.setIlen` -/

@[simp] theorem Block.setIlen_hin (b : Block) (v) : (b.setIlen v).hin = b.hin := rfl
@[simp] theorem Block.setIlen_hash (b : Block) (v) : (b.setIlen v).hash = b.hash := rfl
@[simp] theorem Block.setIlen_thash (b : Block) (v) : (b.setIlen v).thash = b.thash := rfl
@[simp] theorem Block.setIlen_plen (b : Block) (v) : (b.setIlen v).plen = b.plen := rfl
@[simp] theorem Block.setIlen_st (b : Block) (v) : (b.setIlen v).st = b.st := rfl
@[simp] theorem Block.setIlen_tv (b : Block) (v) : (b.setIlen v).tv = b.tv := rfl
@[simp] theorem Block.setIlen_ilen (b : Block) (v) : (b.setIlen v).ilen = v := rfl
@[simp] theorem Block.setIlen_olen (b : Block) (v) : (b.setIlen v).olen = b.olen := rfl
@[simp] theorem Block.setIlen_ibuf (b : Block) (v) : (b.setIlen v).ibuf = b.ibuf := rfl
@[simp] theorem Block.setIlen_obuf (b : Block) (v) : (b.setIlen v).obuf = b.obuf := rfl
@[simp] theorem Block.setIlen_hasher (b : Block) (v) : (b.setIlen v).hasher = b.hasher := rfl
@[simp] theorem Block.setIlen_setIlen (b : Block) (v w) : (b.setIlen v).setIlen w = b.setIlen w := rfl
@[simp] theorem Block.setIlen_self (b : Block) : b.setIlen b.ilen = b := rfl

/-! ## `Block.setOlen` -/

@[simp] theorem Block.setOlen_hin (b : Block) (v) : (b.setOlen v).hin = b.hin := rfl
@[simp] theorem Block.setOlen_hash (b : Block) (v) : (b.setOlen v).hash = b.hash := rfl
@[simp] theorem Block.setOlen_thash (b : Block) (v) : (b.setOlen v).thash = b.thash := rfl
@[simp] theorem Block.setOlen_plen (b : Block) (v) : (b.setOlen v).plen = b.plen := rfl
@[simp] theorem Block.setOlen_st (b : Block) (v) : (b.setOlen v).st = b.st := rfl
@[simp] theorem Block.setOlen_tv (b : Block) (v) : (b.setOlen v).tv = b.tv := rfl
@[simp] theorem Block.setOlen_ilen (b : Block) (v) : (b.setOlen v).ilen = b.ilen := rfl
@[simp] theorem Block.setOlen_olen (b : Block) (v) : (b.setOlen v).olen = v := rfl
@[simp] theorem Block.setOlen_ibuf (b : Block) (v) : (b.setOlen v).ibuf = b.ibuf := rfl
@[simp] theorem Block.setOlen_obuf (b : Block) (v) : (b.setOlen v).obuf = b.obuf := rfl
@[simp] theorem Block.setOlen_hasher (b : Block) (v) : (b.setOlen v).hasher = b.hasher := rfl
@[simp] theorem Block.setOlen_setOlen (b : Block) (v w) : (b.setOlen v).setOlen w = b.setOlen w := rfl
@[simp] theorem Block.setOlen_self (b : Block) : b.setOlen b.olen = b := rfl

/-! ## `Block.setIbuf` -/

@[simp] theorem Block.setIbuf_hin (b : Block) (v) : (b.setIbuf v).hin = b.hin := rfl
@[simp] theorem Block.setIbuf_hash (b : Block) (v) : (b.setIbuf v).hash = b.hash := rfl
@[simp] theorem Block.setIbuf_thash (b : Block) (v) : (b.setIbuf v).thash = b.thash := rfl
@[simp] theorem Block.setIbuf_plen (b : Block) (v) : (b.setIbuf v).plen = b.plen := rfl
@[simp] theorem Block.setIbuf_st (b : Block) (v) : (b.setIbuf v).st = b.st := rfl
@[simp] theorem Block.setIbuf_tv (b : Block) (v) : (b.setIbuf v).tv = b.tv := rfl
@[simp] theorem Block.setIbuf_ilen (b : Block) (v) : (b.setIbuf v).ilen = b.ilen := rfl
@[simp] theorem Block.setIbuf_olen (b : Block) (v) : (b.setIbuf v).olen = b.olen := rfl
@[simp] theorem Block.setIbuf_ibuf (b : Block) (v) : (b.setIbuf v).ibuf = v := rfl
@[simp] theorem Block.setIbuf_obuf (b : Block) (v) : (b.setIbuf v).obuf = b.obuf := rfl
@[simp] theorem Block.setIbuf_hasher (b : Block) (v) : (b.setIbuf v).hasher = b.hasher := rfl
@[simp] theorem Block.setIbuf_setIbuf (b : Block) (v w) : (b.setIbuf v).setIbuf w = b.setIbuf w := rfl
@[simp] theorem Block.setIbuf_self (b : Block) : b.setIbuf b.ibuf = b := rfl

/-! ## `Block.setObuf` -/

@[simp] theorem Block.setObuf_hin (b : Block) (v) : (b.setObuf v).hin = b.hin := rfl
@[simp] theorem Block.setObuf_hash (b : Block) (v) : (b.setObuf v).hash = b.hash := rfl
@[simp] theorem Block.setObuf_thash (b : Block) (v) : (b.setObuf v).thash = b.thash := rfl
@[simp] theorem Block.setObuf_plen (b : Block) (v) : (b.setObuf v).plen = b.plen := rfl
@[simp] theorem Block.setObuf_st (b : Block) (v) : (b.setObuf v).st = b.st := rfl
@[simp] theorem Block.setObuf_tv (b : Block) (v) : (b.setObuf v).tv = b.tv := rfl
@[simp] theorem Block.setObuf_ilen (b : Block) (v) : (b.setObuf v).ilen = b.ilen := rfl
@[simp] theorem Block.setObuf_olen (b : Block) (v) : (b.setObuf v).olen = b.olen := rfl
@[simp] theorem Block.setObuf_ibuf (b : Block) (v) : (b.setObuf v).ibuf = b.ibuf := rfl
@[simp] theorem Block.setObuf_obuf (b : Block) (v) : (b.setObuf v).obuf = v := rfl
@[simp] theorem Block.setObuf_hasher (b : Block) (v) : (b.setObuf v).hasher = b.hasher := rfl
@[simp] theorem Block.setObuf_setObuf (b : Block) (v w) : (b.setObuf v).setObuf w = b.setObuf w := rfl
@[simp] theorem Block.setObuf_self (b : Block) : b.setObuf b.obuf = b := rfl

/-! ## `Block.setHasher` -/

@[simp] theorem Block.setHasher_hin (b : Block) (v) : (b.setHasher v).hin = b.hin := rfl
@[simp] theorem Block.setHasher_hash (b : Block) (v) : (b.setHasher v).hash = b.hash := rfl
@[simp] theorem Block.setHasher_thash (b : Block) (v) : (b.setHasher v).thash = b.thash := rfl
@[simp] theorem Block.setHasher_plen (b : Block) (v) : (b.setHasher v).plen = b.plen := rfl
@[simp] theorem Block.setHasher_st (b : Block) (v) : (b.setHasher v).st = b.st := rfl
@[simp] theorem Block.setHasher_tv (b : Block) (v) : (b.setHasher v).tv = b.tv := rfl
@[simp] theorem Block.setHasher_ilen (b : Block) (v) : (b.setHasher v).ilen = b.ilen := rfl
@[simp] theorem Block.setHasher_olen (b : Block) (v) : (b.setHasher v).olen = b.olen := rfl
@[simp] theorem Block.setHasher_ibuf (b : Block) (v) : (b.setHasher v).ibuf = b.ibuf := rfl
@[simp] theorem Block.setHasher_obuf (b : Block) (v) : (b.setHasher v).obuf = b.obuf := rfl
@[simp] theorem Block.setHasher_hasher (b : Block) (v) : (b.setHasher v).hasher = v := rfl
@[simp] theorem Block.setHasher_setHasher (b : Block) (v w) : (b.setHasher v).setHasher w = b.setHasher w := rfl
@[simp] theorem Block.setHasher_self (b : Block) : b.setHasher b.hasher = b := rfl

/-! ## `State.setBlock` -/

@[simp] theorem State.setBlock_block (s : State) (v) : (s.setBlock v).block = v := rfl
@[simp] theorem State.setBlock_cap (s : State) (v) : (s.setBlock v).cap = s.cap := rfl
@[simp] theorem State.setBlock_script (s : State) (v) : (s.setBlock v).script = s.script := rfl
@[simp] theorem State.setBlock_responses (s : State) (v) : (s.setBlock v).responses = s.responses := rfl
@[simp] theorem State.setBlock_draws (s : State) (v) : (s.setBlock v).draws = s.draws := rfl
@[simp] theorem State.setBlock_setBlock (s : State) (v w) : (s.setBlock v).setBlock w = s.setBlock w := rfl
@[simp] theorem State.setBlock_self (s : State) : s.setBlock s.block = s := rfl

/-! ## `State.setCap` -/

@[simp] theorem State.setCap_block (s : State) (v) : (s.setCap v).block = s.block := rfl
@[simp] theorem State.setCap_cap (s : State) (v) : (s.setCap v).cap = v := rfl
@[simp] theorem State.setCap_script (s : State) (v) : (s.setCap v).script = s.script := rfl
@[simp] theorem State.setCap_responses (s : State) (v) : (s.setCap v).responses = s.responses := rfl
@[simp] theorem State.setCap_draws (s : State) (v) : (s.setCap v).draws = s.draws := rfl
@[simp] theorem State.setCap_setCap (s : State) (v w) : (s.setCap v).setCap w = s.setCap w := rfl
@[simp] theorem State.setCap_self (s : State) : s.setCap s.cap = s := rfl

/-! ## `State.setScript` -/

@[simp] theorem State.setScript_block (s : State) (v) : (s.setScript v).block = s.block := rfl
@[simp] theorem State.setScript_cap (s : State) (v) : (s.setScript v).cap = s.cap := rfl
@[simp] theorem State.setScript_script (s : State) (v) : (s.setScript v).script = v := rfl
@[simp] theorem State.setScript_responses (s : State) (v) : (s.setScript v).responses = s.responses := rfl
@[simp] theorem State.setScript_draws (s : State) (v) : (s.setScript v).draws = s.draws := rfl
@[simp] theorem State.setScript_setScript (s : State) (v w) : (s.setScript v).setScript w = s.setScript w := rfl
@[simp] theorem State.setScript_self (s : State) : s.setScript s.script = s := rfl

/-! ## `State.setResponses` -/

@[simp] theorem State.setResponses_block (s : State) (v) : (s.setResponses v).block = s.block := rfl
@[simp] theorem State.setResponses_cap (s : State) (v) : (s.setResponses v).cap = s.cap := rfl
@[simp] theorem State.setResponses_script (s : State) (v) : (s.setResponses v).script = s.script := rfl
@[simp] theorem State.setResponses_responses (s : State) (v) : (s.setResponses v).responses = v := rfl
@[simp] theorem State.setResponses_draws (s : State) (v) : (s.setResponses v).draws = s.draws := rfl
@[simp] theorem State.setResponses_setResponses (s : State) (v w) : (s.setResponses v).setResponses w = s.setResponses w := rfl
@[simp] theorem State.setResponses_self (s : State) : s.setResponses s.responses = s := rfl

/-! ## `State.setDraws` -/

@[simp] theorem State.setDraws_block (s : State) (v) : (s.setDraws v).block = s.block := rfl
@[simp] theorem State.setDraws_cap (s : State) (v) : (s.setDraws v).cap = s.cap := rfl
@[simp] theorem State.setDraws_script (s : State) (v) : (s.setDraws v).script = s.script := rfl
@[simp] theorem State.setDraws_responses (s : State) (v) : (s.setDraws v).responses = s.responses := rfl
@[simp] theorem State.setDraws_draws (s : State) (v) : (s.setDraws v).draws = v := rfl
@[simp] theorem State.setDraws_setDraws (s : State) (v w) : (s.setDraws v).setDraws w = s.setDraws w := rfl
@[simp] theorem State.setDraws_self (s : State) : s.setDraws s.draws = s := rfl

/-- Two blocks with the same fields are the same block. -/
theorem Block.eq_of_fields {b c : Block} (h1 : b.hin = c.hin) (h2 : b.hash = c.hash)
    (h3 : b.thash = c.thash) (h4 : b.plen = c.plen) (h5 : b.st = c.st) (h6 : b.tv = c.tv)
    (h7 : b.ilen = c.ilen) (h8 : b.olen = c.olen) (h9 : b.ibuf = c.ibuf) (h10 : b.obuf = c.obuf)
    (h11 : b.hasher = c.hasher) : b = c := by
  cases b; cases c; simp_all

/-- Two states with the same fields are the same state. -/
theorem State.eq_of_fields {s t : State} (h1 : s.block = t.block) (h2 : s.cap = t.cap)
    (h3 : s.script = t.script) (h4 : s.responses = t.responses) (h5 : s.draws = t.draws) : s = t := by
  cases s; cases t; simp_all

end Sys2Proof.Machine
end

