-- ==== Sys2Proof/Laws/Hasher.lean ====
section
/-! SUPPORT. The hasher's small steps compute `hash` over the bytes they read (spec/40_hasher.md R107,
R117). -/

namespace Sys2Proof.Machine

@[simp] theorem State.inputBytes_length (s : State) (u : Config.Access) (n : Nat) :
    (s.inputBytes u n).length = n := by simp [State.inputBytes]

theorem State.inputBytes_getD (s : State) (u : Config.Access) (n a : Nat) :
    (s.inputBytes u n).getD a 0#8 = if a < n then s.inputByte u a else 0#8 := by
  rw [List.getD_eq_getElem?_getD, State.inputBytes, List.getElem?_map]
  by_cases h : a < n
  · simp [h]
  · simp [h]

/-- The masked block read is the block of the padded sequence of bytes read (R102). -/
theorem State.blockValue_eq (s : State) (n i : Nat) :
    s.blockValue n i = blockValueOf (s.inputBytes .block n) i := by
  simp only [State.blockValue, blockValueOf, State.blockBytes, blockOf, State.inputBytes_getD]

theorem partialHash_zero (b : List Byte) : partialHash b 0 = 0 := rfl

theorem partialHash_succ (b : List Byte) (k : Nat) :
    partialHash b (k + 1) =
      partialHash b k + contribution (blockValueOf b k) (BitVec.ofNat 64 k) := by
  simp [partialHash, List.range_succ]

theorem lt_nblocks {n k : Nat} : k < nblocks n ↔ 8 * k < n := by
  simp only [nblocks, Config.blockBytes]
  omega

/-- The hidden registers after `k` ABSORB steps over `b` (R117). -/
def absorbed (b : List Byte) (before : Hasher) : Nat → Hasher
  | 0 => before.init
  | k + 1 =>
    { acc := partialHash b (k + 1)
      idx := BitVec.ofNat 64 (k + 1)
      blk := blockValueOf b k }

theorem absorbed_acc (b : List Byte) (r : Hasher) (k : Nat) :
    (absorbed b r k).acc = partialHash b k := by cases k <;> rfl

theorem absorbed_idx (b : List Byte) (r : Hasher) (k : Nat) :
    (absorbed b r k).idx = BitVec.ofNat 64 k := by cases k <;> rfl

theorem absorb_absorbed (s : State) (n k : Nat) (r : Hasher) (hk : k < 2 ^ 64) :
    s.absorb n (absorbed (s.inputBytes .block n) r k) =
      absorbed (s.inputBytes .block n) r (k + 1) := by
  have hidx : (BitVec.ofNat 64 k).toNat = k := by
    rw [BitVec.toNat_ofNat, Nat.mod_eq_of_lt hk]
  rw [State.absorb, absorbed_acc, absorbed_idx, hidx, State.blockValue_eq, absorbed,
    partialHash_succ, BitVec.ofNat_add]
  rfl

theorem absorbAll_absorbed (s : State) (n fuel k : Nat) (r : Hasher) (hn : n < 2 ^ 64)
    (hf : k + fuel = nblocks n) :
    s.absorbAll n fuel (absorbed (s.inputBytes .block n) r k) =
      absorbed (s.inputBytes .block n) r (nblocks n) := by
  induction fuel generalizing k with
  | zero => rw [← hf]; rfl
  | succ fuel ih =>
    have hlt : 8 * k < n := lt_nblocks.mp (by omega)
    have hk : k < 2 ^ 64 := by omega
    have hidx : (BitVec.ofNat 64 k).toNat = k := by
      rw [BitVec.toNat_ofNat, Nat.mod_eq_of_lt hk]
    rw [State.absorbAll, if_pos (by
      simp only [Hasher.absorbing, absorbed_idx, hidx, Config.blockBytes, hlt, decide_true]),
      absorb_absorbed s n k r hk]
    exact ih (k + 1) (by omega)

/-- R107, R117: what a run leaves in the hidden registers. -/
theorem State.runHasher_eq (s : State) {n : Nat} (hn : n < 2 ^ 64) :
    s.runHasher n = hasherAfter (s.inputBytes .block n) s.block.hasher := by
  have h := absorbAll_absorbed s n (nblocks n) 0 s.block.hasher hn (by omega)
  rw [State.runHasher]
  refine Eq.trans h ?_
  rcases Nat.eq_zero_or_pos n with rfl | hpos
  · rw [hasherAfter, blockHash, State.inputBytes_length, if_pos rfl, show nblocks 0 = 0 from rfl,
      partialHash_zero]
    rfl
  · obtain ⟨k, hk⟩ : ∃ k, nblocks n = k + 1 :=
      ⟨nblocks n - 1, by have := (lt_nblocks (n := n) (k := 0)).mpr (by omega); omega⟩
    simp only [hasherAfter, State.inputBytes_length, hk, absorbed, blockHash,
      Nat.add_sub_cancel, if_neg (show ¬ n = 0 by omega)]

/-- R107: the whole effect of `HASH <- hash_prefix(n)`. -/
theorem State.hashPrefix_eq (s : State) {n : Nat} (hn : n < 2 ^ 64) :
    s.hashPrefix n = s.setBlock ((s.block.setHasher
      (hasherAfter (s.inputBytes .block n) s.block.hasher)).setHash
        (blockHash (s.inputBytes .block n))) := by
  rw [State.hashPrefix, State.runHasher_eq s hn]
  rfl

end Sys2Proof.Machine
end

