-- ==== Sys2Proof/Laws/Operands.lean ====
section
/-! SUPPORT. What the reads of the input buffer give when it holds a byte sequence `b`
(spec/70_reset_and_hazards.md R205), and when it may stand for one (U1). -/

namespace Sys2Proof.Machine

theorem State.InputIs.inputMayBe {s : State} {b : List Byte} (h : s.InputIs b) :
    s.InputMayBe b :=
  ⟨h.1, fun a v ha hv => by rw [← h.2 a ha]; exact hv⟩

theorem State.InputIs.ilen_eq {s : State} {b : List Byte} (h : s.InputIs b) :
    s.block.ilen = BitVec.ofNat 64 b.length := by
  rw [← h.1, BitVec.ofNat_toNat, BitVec.setWidth_eq]

theorem State.InputIs.length_lt {s : State} {b : List Byte} (h : s.InputIs b) :
    b.length < 2 ^ 64 := h.1 ▸ s.block.ilen.isLt

theorem State.InputIs.inputByte {s : State} {b : List Byte} (h : s.InputIs b)
    (u : Config.Access) {a : Nat} (ha : a < b.length) : s.inputByte u a = b[a] := by
  rw [State.inputByte, State.valueOr, h.2 a ha, List.getElem?_eq_getElem ha, Option.getD_some]

theorem State.InputIs.inputBytes {s : State} {b : List Byte} (h : s.InputIs b)
    (u : Config.Access) {n : Nat} (hn : n ≤ b.length) : s.inputBytes u n = b.take n := by
  apply List.ext_getElem
  · simp [hn]
  · intro a h1 h2
    have ha : a < b.length := by simp at h1; omega
    simp [State.inputBytes, h.inputByte u ha]

theorem State.InputIs.inputComplete {s : State} {b : List Byte} (h : s.InputIs b) :
    s.inputComplete = true := by
  rw [State.inputComplete, List.all_eq_true]
  intro a ha
  have ha : a < b.length := h.1 ▸ List.mem_range.mp ha
  rw [h.2 a ha, List.getElem?_eq_getElem ha, Option.isSome_some]

/-- The bytes an access reads are a sequence the input buffer may stand for. -/
theorem State.inputBytes_mayBe (s : State) (u : Config.Access) :
    s.InputMayBe (s.inputBytes u s.block.ilen.toNat) := by
  refine ⟨by simp, fun a v ha hv => ?_⟩
  have ha' : a < s.block.ilen.toNat := by simpa using ha
  simp [State.inputBytes, ha', State.inputByte, State.valueOr, hv]

theorem slice_eq_map (b : List Byte) (i k : Nat) (h : i + k ≤ b.length) :
    slice b i (i + k) = (List.range k).map fun j => b.getD (i + j) 0#8 := by
  apply List.ext_getElem
  · simp [slice]; omega
  · intro j h1 h2
    have hj : j < k := by simpa using h2
    simp [slice, List.getElem?_eq_getElem (show i + j < b.length by omega)]

/-- R124: the decode of the input buffer is `tryDecode` of any sequence that agrees with the flag and
trailer reads. -/
theorem State.decodeTrailer_eq {s : State} {b : List Byte} (hlen : s.block.ilen.toNat = b.length)
    (hflag : 9 ≤ b.length → s.flagByte = b.getD (b.length - 1) 0#8)
    (htrailer : 9 ≤ b.length → ∀ j, j < 8 →
      s.inputByte .trailer (b.length - 9 + j) = b.getD (b.length - 9 + j) 0#8) :
    s.decodeTrailer = (tryDecode b).map fun c => (c.1, BitVec.ofNat 64 c.2) := by
  simp only [State.decodeTrailer, tryDecode, hlen, Config.trailerBytes]
  by_cases h9 : b.length < 9
  · simp [h9]
  · rw [if_neg h9, if_neg h9, hflag (by omega)]
    split
    · rfl
    · have hm : s.trailerHash = le64 (slice b (b.length - 9) (b.length - 1)) := by
        have hs := slice_eq_map b (b.length - 9) 8 (by omega)
        rw [show b.length - 9 + 8 = b.length - 1 by omega] at hs
        rw [State.trailerHash, hs]
        congr 1
        apply List.map_congr_left
        intro j hj
        rw [hlen]
        exact htrailer (by omega) j (List.mem_range.mp hj)
      have hn : s.block.ilen - 9#64 = BitVec.ofNat 64 (b.length - 9) := by
        have := s.block.ilen.isLt
        apply BitVec.eq_of_toNat_eq
        rw [BitVec.toNat_sub, BitVec.toNat_ofNat, BitVec.toNat_ofNat, hlen]
        omega
      simp [hm, hn]

theorem State.InputIs.decodeTrailer {s : State} {b : List Byte} (h : s.InputIs b) :
    s.decodeTrailer = (tryDecode b).map fun c => (c.1, BitVec.ofNat 64 c.2) := by
  refine State.decodeTrailer_eq h.1 (fun h9 => ?_) fun h9 j hj => ?_
  · rw [State.flagByte, h.1, h.inputByte _ (show b.length - 1 < b.length by omega),
      List.getD_eq_getElem _ _ (by omega)]
  · rw [h.inputByte _ (show b.length - 9 + j < b.length by omega),
      List.getD_eq_getElem _ _ (by omega)]

theorem tryDecode_some {b : List Byte} {h : Word} {n : Nat} (hd : tryDecode b = some (h, n)) :
    n + 9 = b.length := by
  simp only [tryDecode, Config.trailerBytes] at hd
  split_ifs at hd with h1 h2
  simp only [Option.some.injEq, Prod.mk.injEq] at hd
  omega

theorem classify_payload_length_le (b : List Byte) : (classify b).2.length ≤ b.length := by
  unfold classify
  split <;> simp

end Sys2Proof.Machine
end

