-- ==== Sys2Proof/Laws/Commands.lean ====
section
/-! SUPPORT. What the shared operations of the commands do: their effect when the input buffer holds a
byte sequence, and the fields they leave alone in every state. -/

namespace Sys2Proof.Machine

/-! ## Fields left alone -/

@[simp] theorem State.hashPrefix_hin (s : State) (n : Nat) :
    (s.hashPrefix n).block.hin = s.block.hin := rfl

@[simp] theorem State.hashPrefix_thash (s : State) (n : Nat) :
    (s.hashPrefix n).block.thash = s.block.thash := rfl

@[simp] theorem State.hashPrefix_plen (s : State) (n : Nat) :
    (s.hashPrefix n).block.plen = s.block.plen := rfl

@[simp] theorem State.hashPrefix_st (s : State) (n : Nat) :
    (s.hashPrefix n).block.st = s.block.st := rfl

@[simp] theorem State.hashPrefix_tv (s : State) (n : Nat) :
    (s.hashPrefix n).block.tv = s.block.tv := rfl

@[simp] theorem State.hashPrefix_ilen (s : State) (n : Nat) :
    (s.hashPrefix n).block.ilen = s.block.ilen := rfl

@[simp] theorem State.hashPrefix_olen (s : State) (n : Nat) :
    (s.hashPrefix n).block.olen = s.block.olen := rfl

@[simp] theorem State.hashPrefix_ibuf (s : State) (n : Nat) :
    (s.hashPrefix n).block.ibuf = s.block.ibuf := rfl

@[simp] theorem State.hashPrefix_obuf (s : State) (n : Nat) :
    (s.hashPrefix n).block.obuf = s.block.obuf := rfl

@[simp] theorem State.hashPrefix_cap (s : State) (n : Nat) : (s.hashPrefix n).cap = s.cap := rfl

@[simp] theorem State.hashPrefix_script (s : State) (n : Nat) : (s.hashPrefix n).script = s.script := rfl

@[simp] theorem State.hashPrefix_responses (s : State) (n : Nat) : (s.hashPrefix n).responses = s.responses := rfl

@[simp] theorem State.hashPrefix_draws (s : State) (n : Nat) : (s.hashPrefix n).draws = s.draws := rfl

@[simp] theorem State.classifyInput_hin (s : State) :
    (s.classifyInput).block.hin = s.block.hin := by
  unfold State.classifyInput; split <;> rfl

@[simp] theorem State.classifyInput_ilen (s : State) :
    (s.classifyInput).block.ilen = s.block.ilen := by
  unfold State.classifyInput; split <;> rfl

@[simp] theorem State.classifyInput_olen (s : State) :
    (s.classifyInput).block.olen = s.block.olen := by
  unfold State.classifyInput; split <;> rfl

@[simp] theorem State.classifyInput_ibuf (s : State) :
    (s.classifyInput).block.ibuf = s.block.ibuf := by
  unfold State.classifyInput; split <;> rfl

@[simp] theorem State.classifyInput_obuf (s : State) :
    (s.classifyInput).block.obuf = s.block.obuf := by
  unfold State.classifyInput; split <;> rfl

@[simp] theorem State.classifyInput_cap (s : State) : (s.classifyInput).cap = s.cap := by
  unfold State.classifyInput; split <;> rfl

@[simp] theorem State.classifyInput_script (s : State) : (s.classifyInput).script = s.script := by
  unfold State.classifyInput; split <;> rfl

@[simp] theorem State.classifyInput_responses (s : State) : (s.classifyInput).responses = s.responses := by
  unfold State.classifyInput; split <;> rfl

@[simp] theorem State.classifyInput_draws (s : State) : (s.classifyInput).draws = s.draws := by
  unfold State.classifyInput; split <;> rfl

@[simp] theorem State.latchTrailer_hin (s : State) :
    (s.latchTrailer).block.hin = s.block.hin := by
  unfold State.latchTrailer; split <;> rfl

@[simp] theorem State.latchTrailer_hash (s : State) :
    (s.latchTrailer).block.hash = s.block.hash := by
  unfold State.latchTrailer; split <;> rfl

@[simp] theorem State.latchTrailer_st (s : State) :
    (s.latchTrailer).block.st = s.block.st := by
  unfold State.latchTrailer; split <;> rfl

@[simp] theorem State.latchTrailer_ilen (s : State) :
    (s.latchTrailer).block.ilen = s.block.ilen := by
  unfold State.latchTrailer; split <;> rfl

@[simp] theorem State.latchTrailer_olen (s : State) :
    (s.latchTrailer).block.olen = s.block.olen := by
  unfold State.latchTrailer; split <;> rfl

@[simp] theorem State.latchTrailer_ibuf (s : State) :
    (s.latchTrailer).block.ibuf = s.block.ibuf := by
  unfold State.latchTrailer; split <;> rfl

@[simp] theorem State.latchTrailer_obuf (s : State) :
    (s.latchTrailer).block.obuf = s.block.obuf := by
  unfold State.latchTrailer; split <;> rfl

@[simp] theorem State.latchTrailer_hasher (s : State) :
    (s.latchTrailer).block.hasher = s.block.hasher := by
  unfold State.latchTrailer; split <;> rfl

@[simp] theorem State.latchTrailer_cap (s : State) : (s.latchTrailer).cap = s.cap := by
  unfold State.latchTrailer; split <;> rfl

@[simp] theorem State.latchTrailer_script (s : State) : (s.latchTrailer).script = s.script := by
  unfold State.latchTrailer; split <;> rfl

@[simp] theorem State.latchTrailer_responses (s : State) : (s.latchTrailer).responses = s.responses := by
  unfold State.latchTrailer; split <;> rfl

@[simp] theorem State.latchTrailer_draws (s : State) : (s.latchTrailer).draws = s.draws := by
  unfold State.latchTrailer; split <;> rfl

@[simp] theorem State.hashIfAbsent_hin (s : State) :
    (s.hashIfAbsent).block.hin = s.block.hin := by
  unfold State.hashIfAbsent; split <;> rfl

@[simp] theorem State.hashIfAbsent_thash (s : State) :
    (s.hashIfAbsent).block.thash = s.block.thash := by
  unfold State.hashIfAbsent; split <;> rfl

@[simp] theorem State.hashIfAbsent_plen (s : State) :
    (s.hashIfAbsent).block.plen = s.block.plen := by
  unfold State.hashIfAbsent; split <;> rfl

@[simp] theorem State.hashIfAbsent_st (s : State) :
    (s.hashIfAbsent).block.st = s.block.st := by
  unfold State.hashIfAbsent; split <;> rfl

@[simp] theorem State.hashIfAbsent_tv (s : State) :
    (s.hashIfAbsent).block.tv = s.block.tv := by
  unfold State.hashIfAbsent; split <;> rfl

@[simp] theorem State.hashIfAbsent_ilen (s : State) :
    (s.hashIfAbsent).block.ilen = s.block.ilen := by
  unfold State.hashIfAbsent; split <;> rfl

@[simp] theorem State.hashIfAbsent_olen (s : State) :
    (s.hashIfAbsent).block.olen = s.block.olen := by
  unfold State.hashIfAbsent; split <;> rfl

@[simp] theorem State.hashIfAbsent_ibuf (s : State) :
    (s.hashIfAbsent).block.ibuf = s.block.ibuf := by
  unfold State.hashIfAbsent; split <;> rfl

@[simp] theorem State.hashIfAbsent_obuf (s : State) :
    (s.hashIfAbsent).block.obuf = s.block.obuf := by
  unfold State.hashIfAbsent; split <;> rfl

@[simp] theorem State.hashIfAbsent_cap (s : State) : (s.hashIfAbsent).cap = s.cap := by
  unfold State.hashIfAbsent; split <;> rfl

@[simp] theorem State.hashIfAbsent_script (s : State) : (s.hashIfAbsent).script = s.script := by
  unfold State.hashIfAbsent; split <;> rfl

@[simp] theorem State.hashIfAbsent_responses (s : State) : (s.hashIfAbsent).responses = s.responses := by
  unfold State.hashIfAbsent; split <;> rfl

@[simp] theorem State.hashIfAbsent_draws (s : State) : (s.hashIfAbsent).draws = s.draws := by
  unfold State.hashIfAbsent; split <;> rfl

@[simp] theorem State.writeTrailer_hin (s : State) (n : Nat) (h : Word) :
    (s.writeTrailer n h).block.hin = s.block.hin := rfl

@[simp] theorem State.writeTrailer_hash (s : State) (n : Nat) (h : Word) :
    (s.writeTrailer n h).block.hash = s.block.hash := rfl

@[simp] theorem State.writeTrailer_thash (s : State) (n : Nat) (h : Word) :
    (s.writeTrailer n h).block.thash = s.block.thash := rfl

@[simp] theorem State.writeTrailer_plen (s : State) (n : Nat) (h : Word) :
    (s.writeTrailer n h).block.plen = s.block.plen := rfl

@[simp] theorem State.writeTrailer_st (s : State) (n : Nat) (h : Word) :
    (s.writeTrailer n h).block.st = s.block.st := rfl

@[simp] theorem State.writeTrailer_tv (s : State) (n : Nat) (h : Word) :
    (s.writeTrailer n h).block.tv = s.block.tv := rfl

@[simp] theorem State.writeTrailer_ilen (s : State) (n : Nat) (h : Word) :
    (s.writeTrailer n h).block.ilen = s.block.ilen := rfl

@[simp] theorem State.writeTrailer_olen (s : State) (n : Nat) (h : Word) :
    (s.writeTrailer n h).block.olen = s.block.olen := rfl

@[simp] theorem State.writeTrailer_ibuf (s : State) (n : Nat) (h : Word) :
    (s.writeTrailer n h).block.ibuf = s.block.ibuf := rfl

@[simp] theorem State.writeTrailer_hasher (s : State) (n : Nat) (h : Word) :
    (s.writeTrailer n h).block.hasher = s.block.hasher := rfl

@[simp] theorem State.writeTrailer_cap (s : State) (n : Nat) (h : Word) : (s.writeTrailer n h).cap = s.cap := rfl

@[simp] theorem State.writeTrailer_script (s : State) (n : Nat) (h : Word) : (s.writeTrailer n h).script = s.script := rfl

@[simp] theorem State.writeTrailer_responses (s : State) (n : Nat) (h : Word) : (s.writeTrailer n h).responses = s.responses := rfl

@[simp] theorem State.writeTrailer_draws (s : State) (n : Nat) (h : Word) : (s.writeTrailer n h).draws = s.draws := rfl

@[simp] theorem State.setImageLength_hin (s : State) (n : Word) :
    (s.setImageLength n).block.hin = s.block.hin := rfl

@[simp] theorem State.setImageLength_hash (s : State) (n : Word) :
    (s.setImageLength n).block.hash = s.block.hash := rfl

@[simp] theorem State.setImageLength_thash (s : State) (n : Word) :
    (s.setImageLength n).block.thash = s.block.thash := rfl

@[simp] theorem State.setImageLength_plen (s : State) (n : Word) :
    (s.setImageLength n).block.plen = s.block.plen := rfl

@[simp] theorem State.setImageLength_st (s : State) (n : Word) :
    (s.setImageLength n).block.st = s.block.st := rfl

@[simp] theorem State.setImageLength_tv (s : State) (n : Word) :
    (s.setImageLength n).block.tv = s.block.tv := rfl

@[simp] theorem State.setImageLength_ilen (s : State) (n : Word) :
    (s.setImageLength n).block.ilen = s.block.ilen := rfl

@[simp] theorem State.setImageLength_ibuf (s : State) (n : Word) :
    (s.setImageLength n).block.ibuf = s.block.ibuf := rfl

@[simp] theorem State.setImageLength_obuf (s : State) (n : Word) :
    (s.setImageLength n).block.obuf = s.block.obuf := rfl

@[simp] theorem State.setImageLength_hasher (s : State) (n : Word) :
    (s.setImageLength n).block.hasher = s.block.hasher := rfl

@[simp] theorem State.setImageLength_cap (s : State) (n : Word) : (s.setImageLength n).cap = s.cap := rfl

@[simp] theorem State.setImageLength_script (s : State) (n : Word) : (s.setImageLength n).script = s.script := rfl

@[simp] theorem State.setImageLength_responses (s : State) (n : Word) : (s.setImageLength n).responses = s.responses := rfl

@[simp] theorem State.setImageLength_draws (s : State) (n : Word) : (s.setImageLength n).draws = s.draws := rfl

@[simp] theorem State.copyPayload_hin (s : State) (n : Nat) :
    (s.copyPayload n).block.hin = s.block.hin := rfl

@[simp] theorem State.copyPayload_hash (s : State) (n : Nat) :
    (s.copyPayload n).block.hash = s.block.hash := rfl

@[simp] theorem State.copyPayload_thash (s : State) (n : Nat) :
    (s.copyPayload n).block.thash = s.block.thash := rfl

@[simp] theorem State.copyPayload_plen (s : State) (n : Nat) :
    (s.copyPayload n).block.plen = s.block.plen := rfl

@[simp] theorem State.copyPayload_st (s : State) (n : Nat) :
    (s.copyPayload n).block.st = s.block.st := rfl

@[simp] theorem State.copyPayload_tv (s : State) (n : Nat) :
    (s.copyPayload n).block.tv = s.block.tv := rfl

@[simp] theorem State.copyPayload_ilen (s : State) (n : Nat) :
    (s.copyPayload n).block.ilen = s.block.ilen := rfl

@[simp] theorem State.copyPayload_olen (s : State) (n : Nat) :
    (s.copyPayload n).block.olen = s.block.olen := rfl

@[simp] theorem State.copyPayload_ibuf (s : State) (n : Nat) :
    (s.copyPayload n).block.ibuf = s.block.ibuf := rfl

@[simp] theorem State.copyPayload_hasher (s : State) (n : Nat) :
    (s.copyPayload n).block.hasher = s.block.hasher := rfl

@[simp] theorem State.copyPayload_cap (s : State) (n : Nat) : (s.copyPayload n).cap = s.cap := rfl

@[simp] theorem State.copyPayload_script (s : State) (n : Nat) : (s.copyPayload n).script = s.script := rfl

@[simp] theorem State.copyPayload_responses (s : State) (n : Nat) : (s.copyPayload n).responses = s.responses := rfl

@[simp] theorem State.copyPayload_draws (s : State) (n : Nat) : (s.copyPayload n).draws = s.draws := rfl

@[simp] theorem State.signPayload_hin (s : State) :
    (s.signPayload).block.hin = s.block.hin := by
  simp [State.signPayload]

@[simp] theorem State.signPayload_hash (s : State) :
    (s.signPayload).block.hash = s.block.hash := by
  simp [State.signPayload]

@[simp] theorem State.signPayload_thash (s : State) :
    (s.signPayload).block.thash = s.block.thash := by
  simp [State.signPayload]

@[simp] theorem State.signPayload_plen (s : State) :
    (s.signPayload).block.plen = s.block.plen := by
  simp [State.signPayload]

@[simp] theorem State.signPayload_st (s : State) :
    (s.signPayload).block.st = s.block.st := by
  simp [State.signPayload]

@[simp] theorem State.signPayload_tv (s : State) :
    (s.signPayload).block.tv = s.block.tv := by
  simp [State.signPayload]

@[simp] theorem State.signPayload_ilen (s : State) :
    (s.signPayload).block.ilen = s.block.ilen := by
  simp [State.signPayload]

@[simp] theorem State.signPayload_ibuf (s : State) :
    (s.signPayload).block.ibuf = s.block.ibuf := by
  simp [State.signPayload]

@[simp] theorem State.signPayload_hasher (s : State) :
    (s.signPayload).block.hasher = s.block.hasher := by
  simp [State.signPayload]

@[simp] theorem State.signPayload_cap (s : State) : (s.signPayload).cap = s.cap := by
  simp [State.signPayload]

@[simp] theorem State.signPayload_script (s : State) : (s.signPayload).script = s.script := by
  simp [State.signPayload]

@[simp] theorem State.signPayload_responses (s : State) : (s.signPayload).responses = s.responses := by
  simp [State.signPayload]

@[simp] theorem State.signPayload_draws (s : State) : (s.signPayload).draws = s.draws := by
  simp [State.signPayload]

@[simp] theorem State.stripPayload_hin (s : State) :
    (s.stripPayload).block.hin = s.block.hin := by
  simp [State.stripPayload]

@[simp] theorem State.stripPayload_hash (s : State) :
    (s.stripPayload).block.hash = s.block.hash := by
  simp [State.stripPayload]

@[simp] theorem State.stripPayload_thash (s : State) :
    (s.stripPayload).block.thash = s.block.thash := by
  simp [State.stripPayload]

@[simp] theorem State.stripPayload_plen (s : State) :
    (s.stripPayload).block.plen = s.block.plen := by
  simp [State.stripPayload]

@[simp] theorem State.stripPayload_st (s : State) :
    (s.stripPayload).block.st = s.block.st := by
  simp [State.stripPayload]

@[simp] theorem State.stripPayload_tv (s : State) :
    (s.stripPayload).block.tv = s.block.tv := by
  simp [State.stripPayload]

@[simp] theorem State.stripPayload_ilen (s : State) :
    (s.stripPayload).block.ilen = s.block.ilen := by
  simp [State.stripPayload]

@[simp] theorem State.stripPayload_ibuf (s : State) :
    (s.stripPayload).block.ibuf = s.block.ibuf := by
  simp [State.stripPayload]

@[simp] theorem State.stripPayload_hasher (s : State) :
    (s.stripPayload).block.hasher = s.block.hasher := by
  simp [State.stripPayload]

@[simp] theorem State.stripPayload_cap (s : State) : (s.stripPayload).cap = s.cap := by
  simp [State.stripPayload]

@[simp] theorem State.stripPayload_script (s : State) : (s.stripPayload).script = s.script := by
  simp [State.stripPayload]

@[simp] theorem State.stripPayload_responses (s : State) : (s.stripPayload).responses = s.responses := by
  simp [State.stripPayload]

@[simp] theorem State.stripPayload_draws (s : State) : (s.stripPayload).draws = s.draws := by
  simp [State.stripPayload]

@[simp] theorem State.signInput_hin (s : State) :
    (s.signInput).block.hin = s.block.hin := by
  simp [State.signInput]

@[simp] theorem State.signInput_ilen (s : State) :
    (s.signInput).block.ilen = s.block.ilen := by
  simp [State.signInput]

@[simp] theorem State.signInput_ibuf (s : State) :
    (s.signInput).block.ibuf = s.block.ibuf := by
  simp [State.signInput]

@[simp] theorem State.signInput_cap (s : State) : (s.signInput).cap = s.cap := by
  simp [State.signInput]

@[simp] theorem State.signInput_script (s : State) : (s.signInput).script = s.script := by
  simp [State.signInput]

@[simp] theorem State.signInput_responses (s : State) : (s.signInput).responses = s.responses := by
  simp [State.signInput]

@[simp] theorem State.signInput_draws (s : State) : (s.signInput).draws = s.draws := by
  simp [State.signInput]

@[simp] theorem State.endReads_block (s : State) (held : Bool) : (s.endReads held).block = s.block := by
  unfold State.endReads; split <;> rfl

@[simp] theorem State.endReads_cap (s : State) (held : Bool) : (s.endReads held).cap = s.cap := by
  unfold State.endReads; split <;> rfl

@[simp] theorem State.endReads_script (s : State) (held : Bool) : (s.endReads held).script = s.script := by
  unfold State.endReads; split <;> rfl

@[simp] theorem State.endReads_responses (s : State) (held : Bool) : (s.endReads held).responses = s.responses := by
  unfold State.endReads; split <;> rfl

@[simp] theorem State.respond_block (s : State) (r : Response) : (s.respond r).block = s.block := rfl

@[simp] theorem State.respond_cap (s : State) (r : Response) : (s.respond r).cap = s.cap := rfl

@[simp] theorem State.respond_script (s : State) (r : Response) : (s.respond r).script = s.script := rfl

@[simp] theorem State.respond_draws (s : State) (r : Response) : (s.respond r).draws = s.draws := rfl

@[simp] theorem State.respondOk_block (s : State) : (s.respondOk).block = s.block := rfl

@[simp] theorem State.respondOk_cap (s : State) : (s.respondOk).cap = s.cap := rfl

@[simp] theorem State.respondOk_script (s : State) : (s.respondOk).script = s.script := rfl

@[simp] theorem State.respondOk_draws (s : State) : (s.respondOk).draws = s.draws := rfl

@[simp] theorem State.respondErr_block (s : State) (c : ErrorCode) : (s.respondErr c).block = s.block := rfl

@[simp] theorem State.respondErr_cap (s : State) (c : ErrorCode) : (s.respondErr c).cap = s.cap := rfl

@[simp] theorem State.respondErr_script (s : State) (c : ErrorCode) : (s.respondErr c).script = s.script := rfl

@[simp] theorem State.respondErr_draws (s : State) (c : ErrorCode) : (s.respondErr c).draws = s.draws := rfl

@[simp] theorem State.respond_responses (s : State) (r : Response) :
    (s.respond r).responses = s.responses ++ [r] := rfl

@[simp] theorem State.respondOk_responses (s : State) :
    s.respondOk.responses = s.responses ++ [.ok] := rfl

@[simp] theorem State.respondErr_responses (s : State) (c : ErrorCode) :
    (s.respondErr c).responses = s.responses ++ [.err c] := rfl

@[simp] theorem State.endReads_true (s : State) : s.endReads true = s := rfl

@[simp] theorem State.endReads_false (s : State) :
    s.endReads false = s.setDraws (s.draws + 1) := rfl

/-! ## Effects -/

/-- R143: the effect of the classification phase on a completely written buffer. -/
theorem State.InputIs.classifyInput {s : State} {b : List Byte} (h : s.InputIs b) :
    s.classifyInput = s.setBlock (s.block.afterClassify b) := by
  unfold State.classifyInput Block.afterClassify classify
  rw [h.decodeTrailer]
  cases hd : tryDecode b with
  | none => rw [← h.ilen_eq]; rfl
  | some c =>
    obtain ⟨w, n⟩ := c
    have hn := tryDecode_some hd
    have hb := h.length_lt
    have hm : (BitVec.ofNat 64 n).toNat = n := by
      rw [BitVec.toNat_ofNat, Nat.mod_eq_of_lt (by omega)]
    simp only [Option.map_some, hm, State.hashPrefix_eq s (show n < 2 ^ 64 by omega),
      h.inputBytes .block (show n ≤ b.length by omega)]
    rfl

/-- R125: the effect of TRYDECODE on a completely written buffer. -/
theorem State.InputIs.latchTrailer {s : State} {b : List Byte} (h : s.InputIs b) :
    s.latchTrailer = s.setBlock (match tryDecode b with
      | none => s.block.setTv false
      | some (w, n) => ((s.block.setTv true).setThash w).setPlen (BitVec.ofNat 64 n)) := by
  unfold State.latchTrailer
  rw [h.decodeTrailer]
  cases tryDecode b <;> rfl

/-- R24: the payload length a classification determines. -/
theorem Block.afterClassify_plen (k : Block) (b : List Byte) :
    (k.afterClassify b).plen = BitVec.ofNat 64 (classify b).2.length := by
  unfold Block.afterClassify classify
  cases hd : tryDecode b with
  | none => rfl
  | some c =>
    have hn := tryDecode_some hd
    simp only [List.length_take]
    rw [Nat.min_eq_left (by omega)]

theorem classify_payload_eq_take (b : List Byte) :
    (classify b).2 = b.take (classify b).2.length := by
  unfold classify
  split
  · simp
  · rename_i hd
    have := tryDecode_some hd
    rw [List.length_take, Nat.min_eq_left (by omega)]

theorem State.InputIs.setBlock {s : State} {b : List Byte} (h : s.InputIs b) {k : Block}
    (h1 : k.ilen = s.block.ilen) (h2 : k.ibuf = s.block.ibuf) : (s.setBlock k).InputIs b :=
  ⟨by rw [State.setBlock_block, h1]; exact h.1, fun a ha => by
    rw [State.setBlock_block, h2]; exact h.2 a ha⟩

theorem State.setBlock_inputBytes {s : State} {k : Block} (h : k.ibuf = s.block.ibuf)
    (u : Config.Access) (n : Nat) : (s.setBlock k).inputBytes u n = s.inputBytes u n := by
  unfold State.inputBytes
  refine List.map_congr_left fun a _ => ?_
  simp only [State.inputByte, State.setBlock_block, h]
  rfl

@[simp] theorem Block.afterClassify_ilen (k : Block) (b : List Byte) :
    (k.afterClassify b).ilen = k.ilen := by unfold Block.afterClassify; split <;> rfl

@[simp] theorem Block.afterClassify_ibuf (k : Block) (b : List Byte) :
    (k.afterClassify b).ibuf = k.ibuf := by unfold Block.afterClassify; split <;> rfl

@[simp] theorem Block.afterClassify_obuf (k : Block) (b : List Byte) :
    (k.afterClassify b).obuf = k.obuf := by unfold Block.afterClassify; split <;> rfl

/-- R162: the effect of both phases of ADD on a completely written buffer. -/
theorem State.InputIs.signInput {s : State} {b : List Byte} (h : s.InputIs b) :
    s.signInput = s.setBlock (s.block.afterSign b) := by
  have hle := classify_payload_length_le b
  have hb := h.length_lt
  have hm : (BitVec.ofNat 64 (classify b).2.length).toNat = (classify b).2.length := by
    rw [BitVec.toNat_ofNat, Nat.mod_eq_of_lt (by omega)]
  have hp : ∀ u, s.inputBytes u (classify b).2.length = (classify b).2 := fun u => by
    rw [h.inputBytes u hle, ← classify_payload_eq_take]
  have hh : (s.setBlock (s.block.afterClassify b)).hashIfAbsent =
      s.setBlock ((((s.block.afterClassify b).setHasher
        (hasherAfter (classify b).2 s.block.hasher)).setHash (blockHash (classify b).2))) := by
    unfold State.hashIfAbsent
    by_cases htv : (s.block.afterClassify b).tv
    · rw [State.setBlock_block, if_pos htv]
      revert htv
      unfold Block.afterClassify
      cases tryDecode b <;> intro htv
      · cases htv
      · rfl
    · rw [State.setBlock_block, if_neg htv, Block.afterClassify_plen, hm,
        State.hashPrefix_eq _ (by omega), State.setBlock_inputBytes (by simp), hp]
      revert htv
      unfold Block.afterClassify
      cases tryDecode b <;> intro htv
      · rfl
      · exact absurd rfl htv
  rw [State.signInput, h.classifyInput, hh, State.signPayload]
  simp only [State.copyPayload, State.writeTrailer, State.setImageLength, State.setBlock_block,
    Block.setHash_plen, Block.setHasher_plen, Block.afterClassify_plen, hm, Block.setHash_hash,
    State.setBlock_setBlock]
  rw [State.setBlock_inputBytes (by simp), hp]
  have ho := Memory.writeBytes_append s.block.obuf 0 (classify b).2 (trailer (blockHash (classify b).2))
  rw [Nat.zero_add] at ho
  refine congrArg s.setBlock (Block.eq_of_fields ?_ ?_ ?_ ?_ ?_ ?_ ?_ ?_ ?_ ?_ ?_) <;>
    simp [Block.afterSign, addOp, ho, BitVec.ofNat_add]

/-- R164: the effect of both phases of REMOVE on a completely written buffer. -/
theorem State.InputIs.stripInput {s : State} {b : List Byte} (h : s.InputIs b) :
    s.classifyInput.stripPayload = s.setBlock (s.block.afterStrip b) := by
  have hle := classify_payload_length_le b
  have hb := h.length_lt
  have hm : (BitVec.ofNat 64 (classify b).2.length).toNat = (classify b).2.length := by
    rw [BitVec.toNat_ofNat, Nat.mod_eq_of_lt (by omega)]
  have hp : s.inputBytes .copy (classify b).2.length = (classify b).2 := by
    rw [h.inputBytes .copy hle, ← classify_payload_eq_take]
  rw [h.classifyInput, State.stripPayload]
  simp only [State.copyPayload, State.setImageLength, State.setBlock_block,
    Block.afterClassify_plen, hm, State.setBlock_setBlock]
  rw [State.setBlock_inputBytes (by simp), hp]
  refine congrArg s.setBlock (Block.eq_of_fields ?_ ?_ ?_ ?_ ?_ ?_ ?_ ?_ ?_ ?_ ?_) <;>
    simp [Block.afterStrip, removeOp]

end Sys2Proof.Machine
end

