-- ==== Sys2Proof/Laws/Functions.lean ====
section
/-! SUPPORT. The functions of the document, one lemma each for how they are computed: block by block for
the hash (spec/40_hasher.md), by trailer shape for the decode and the classification
(spec/41_trailer_codec.md R124, spec/42_detector.md R141). -/

namespace Sys2Proof.Machine

/-! ## BlockHasher -/

theorem blockValueOf_congr {b c : List Byte} {i : Nat}
    (h : ∀ j, j < 8 → b.getD (8 * i + j) 0#8 = c.getD (8 * i + j) 0#8) :
    blockValueOf b i = blockValueOf c i := by
  unfold blockValueOf blockOf
  congr 1
  exact List.map_congr_left fun j hj => h j (List.mem_range.mp hj)

/-- The partial hash depends on its blocks' values alone. -/
theorem partialHash_congr {b c : List Byte} {k : Nat}
    (h : ∀ i, i < k → blockValueOf b i = blockValueOf c i) : partialHash b k = partialHash c k := by
  induction k with
  | zero => rw [partialHash_zero b, partialHash_zero c]
  | succ k ih =>
    rw [partialHash_succ b k, partialHash_succ c k, ih fun i hi => h i (by omega), h k (by omega)]

theorem nblocks_mul (m : Nat) : nblocks (8 * m) = m := by
  simp only [nblocks, Config.blockBytes]
  omega

/-- One whole block behind whole blocks adds its contribution. -/
theorem blockHash_append_block {b c : List Byte} {m : Nat} (hb : b.length = 8 * m)
    (hc : c.length = 8) :
    blockHash (b ++ c) = blockHash b + contribution (le64 c) (BitVec.ofNat 64 m) := by
  have hblock : blockOf (b ++ c) m = c := by
    apply List.ext_getElem
    · simp [blockOf, hc]
    · intro j h1 h2
      simp only [blockOf, List.getElem_map, List.getElem_range, Config.blockBytes]
      rw [List.getD_eq_getElem?_getD, List.getElem?_append_right (by omega),
        show 8 * m + j - b.length = j by omega, List.getElem?_eq_getElem h2, Option.getD_some]
  have hbefore : partialHash (b ++ c) m = partialHash b m :=
    partialHash_congr fun i hi => blockValueOf_congr fun j hj => by
      rw [List.getD_eq_getElem?_getD, List.getD_eq_getElem?_getD,
        List.getElem?_append_left (by omega)]
  rw [blockHash, blockHash, List.length_append, hc, hb, show 8 * m + 8 = 8 * (m + 1) by omega,
    nblocks_mul, nblocks_mul, partialHash_succ (b ++ c) m, hbefore, blockValueOf, hblock]

/-- XOR with one index mix loses nothing (R112). -/
theorem contribution_injective {v w i : Word} (h : contribution v i = contribution w i) : v = w :=
  (BitVec.xor_left_inj _).mp h

/-! ## TrailerCodec and SignatureDetector -/

theorem tryDecode_none_iff (b : List Byte) : tryDecode b = none ↔ trailerShaped b = false := by
  unfold tryDecode trailerShaped
  by_cases h : b.length < Config.trailerBytes
  · simp [if_pos h, decide_eq_false (show ¬ Config.trailerBytes ≤ b.length by omega)]
  · rw [if_neg h, decide_eq_true (show Config.trailerBytes ≤ b.length by omega)]
    by_cases h2 : b.getD (b.length - 1) 0#8 = Config.flag
    · rw [h2]
      simp
    · rw [if_pos h2]
      simpa using h2

theorem length_of_trailerShaped {b : List Byte} (h : trailerShaped b = true) : 9 ≤ b.length := by
  simp only [trailerShaped, Bool.and_eq_true, decide_eq_true_eq] at h
  exact h.1

theorem tryDecode_of_trailerShaped {b : List Byte} (h : trailerShaped b = true) :
    tryDecode b =
      some (le64 (slice b (b.length - 9) (b.length - 1)), b.length - 9) := by
  have h9 := length_of_trailerShaped h
  simp only [trailerShaped, Bool.and_eq_true, beq_iff_eq] at h
  rw [tryDecode, if_neg (by rw [Config.trailerBytes]; omega), h.2, if_neg (by simp)]

theorem classify_of_not_trailerShaped {b : List Byte} (h : trailerShaped b = false) :
    classify b = (.unsigned, b) := by
  rw [classify, (tryDecode_none_iff b).mpr h]

theorem classify_of_trailerShaped {b : List Byte} (h : trailerShaped b = true) :
    classify b = (statusOf (blockHash (b.take (b.length - 9)))
      (le64 (slice b (b.length - 9) (b.length - 1))), b.take (b.length - 9)) := by
  rw [classify, tryDecode_of_trailerShaped h]

end Sys2Proof.Machine
end

