-- ==== Sys2Proof/Laws/PerInstr.lean ====
section
/-! SUPPORT. Laws stated for every command as syntax, one lemma per constructor. -/

namespace Sys2Proof.Laws.EncodeDecode

/-- R81: the command's word is one of the defined opcodes, and decoding it gives the command back. -/
def Statement (i : Instr) : Prop :=
  i.wellFormed = true ∧ opcodeDefined (Sys2Proof.encode i) = true ∧
    Sys2Proof.decode (Sys2Proof.encode i) = .ok i

theorem hash : Statement .hash := by unfold Statement; decide
theorem encode : Statement .encode := by unfold Statement; decide
theorem tryDecode : Statement .tryDecode := by unfold Statement; decide
theorem classify : Statement .classify := by unfold Statement; decide
theorem add : Statement .add := by unfold Statement; decide
theorem remove : Statement .remove := by unfold Statement; decide
theorem resign : Statement .resign := by unfold Statement; decide

end Sys2Proof.Laws.EncodeDecode
end

