-- ==== Sys2Proof/Laws/Transactions.lean ====
section
/-! SUPPORT. What serving one host event can do (spec/20_memory.md R58 to R62, spec/30_encoding.md R80,
R82, spec/70_reset_and_hazards.md R200), said once for every proof about a step. -/

namespace Sys2Proof.Machine

/-- A reserved opcode is rejected, and only a reserved one (R82). -/
theorem decode_error_iff (op : Byte) :
    decode op = .error (.reservedOpcode op) ↔ op.toNat = 0 ∨ 8 ≤ op.toNat := by
  revert op
  decide +kernel

/-- `decode` rejects a word only by its name. -/
theorem decode_error_eq {op : Byte} {e : DecodeError} (h : decode op = .error e) :
    e = .reservedOpcode op := by
  unfold decode at h
  split at h
  · cases h
  · exact (Except.error.inj h).symm

/-- Everything a served host event can do. -/
theorem serve_cases {e : HostEvent} {s t : State} (h : serve e s = .next t) :
    (∃ c, t = s.respondErr c) ∨
    (e = .reset ∧ t = s.resetBlock) ∨
    (∃ op i, e = .wrr 0 op ∧ decode op = .ok i ∧ exec i s = .next t) ∨
    (∃ v : Word, e = .wrr 2 v ∧ v.toNat ≤ s.cap.val ∧
      t = (s.setBlock (s.block.setIlen v)).respondOk) ∨
    (∃ v : Word, e = .wrr 4 v ∧ t = (s.setBlock (s.block.setHin v)).respondOk) ∨
    (∃ a v, e = .wri a v ∧ a < s.cap.val ∧
      t = (s.setBlock (s.block.setIbuf (s.block.ibuf.write a v))).respondOk) ∨
    (∃ w, e ≠ .reset ∧ t = s.respond (.okWord w)) ∨
    (∃ held v, e ≠ .reset ∧ t = (s.endReads held).respond (.okByte v)) := by
  cases e with
  | rdr k =>
    simp only [serve, Host.Outcome.next.injEq] at h
    subst h
    match k with
    | 0 => exact .inl ⟨_, rfl⟩
    | 1 => exact .inr (.inr (.inr (.inr (.inr (.inr (.inr ⟨true, _, by simp, rfl⟩))))))
    | 2 | 3 | 4 | 5 | 6 | 7 =>
      exact .inr (.inr (.inr (.inr (.inr (.inr (.inl ⟨_, by simp, rfl⟩))))))
    | k + 8 => exact .inl ⟨_, rfl⟩
  | wrr k v =>
    simp only [serve] at h
    match k, v with
    | 0, op =>
      simp only [State.writeRegister, State.issue] at h
      split at h
      · rename_i i hi
        exact .inr (.inr (.inl ⟨op, i, rfl, hi, h⟩))
      · exact .inl ⟨_, (Host.Outcome.next.inj h).symm⟩
    | 2, v =>
      simp only [State.writeRegister, Host.Outcome.next.injEq] at h
      subst h
      unfold State.writeLength
      split
      · exact .inl ⟨_, rfl⟩
      · exact .inr (.inr (.inr (.inl ⟨v, rfl, by omega, rfl⟩)))
    | 4, v => exact .inr (.inr (.inr (.inr (.inl ⟨v, rfl, (Host.Outcome.next.inj h).symm⟩))))
    | 1, _ | 3, _ | 5, _ | 6, _ | 7, _ => exact .inl ⟨_, (Host.Outcome.next.inj h).symm⟩
    | k + 8, _ => exact .inl ⟨_, (Host.Outcome.next.inj h).symm⟩
  | wri a v =>
    simp only [serve, Host.Outcome.next.injEq] at h
    subst h
    unfold State.writeInput
    split
    · exact .inl ⟨_, rfl⟩
    · exact .inr (.inr (.inr (.inr (.inr (.inl ⟨a, v, rfl, by omega, rfl⟩)))))
  | rdi a =>
    simp only [serve, Host.Outcome.next.injEq] at h
    subst h
    unfold State.readInput
    split
    · exact .inl ⟨_, rfl⟩
    · exact .inr (.inr (.inr (.inr (.inr (.inr (.inr ⟨_, _, by simp, rfl⟩))))))
  | rdo a =>
    simp only [serve, Host.Outcome.next.injEq] at h
    subst h
    unfold State.readOutput
    split
    · exact .inl ⟨_, rfl⟩
    · exact .inr (.inr (.inr (.inr (.inr (.inr (.inr ⟨_, _, by simp, rfl⟩))))))
  | reset => exact .inr (.inl ⟨rfl, (Host.Outcome.next.inj h).symm⟩)

/-- What every command leaves alone beside the block, and its one response. -/
theorem exec_environment {i : Instr} {s t : State} (h : exec i s = .next t) :
    t.cap = s.cap ∧ t.script = s.script ∧ t.responses = s.responses ++ [.ok] ∧
      t.block.hin = s.block.hin ∧ t.block.ilen = s.block.ilen ∧ t.block.ibuf = s.block.ibuf := by
  cases i <;>
    · have h := Host.Outcome.next.inj h
      subst h
      simp

/-- Serving an event answers a next state. -/
theorem serve_next (e : HostEvent) (s : State) : ∃ t, serve e s = .next t := by
  cases e with
  | wrr k v =>
    match k, v with
    | 0, op =>
      simp only [serve, State.writeRegister, State.issue]
      split
      · rename_i i _
        cases i <;> exact ⟨_, rfl⟩
      · exact ⟨_, rfl⟩
    | 1, _ | 2, _ | 3, _ | 4, _ | 5, _ | 6, _ | 7, _ => exact ⟨_, rfl⟩
    | k + 8, _ => exact ⟨_, rfl⟩
  | _ => exact ⟨_, rfl⟩

/-- Serving an event touches neither the events still to come nor the capacity. -/
theorem serve_environment {e : HostEvent} {s t : State} (h : serve e s = .next t) :
    t.script = s.script ∧ t.cap = s.cap := by
  rcases serve_cases h with ⟨c, rfl⟩ | ⟨-, rfl⟩ | ⟨_, _, -, -, h⟩ | ⟨_, -, -, rfl⟩ | ⟨_, -, rfl⟩ |
    ⟨_, _, -, -, rfl⟩ | ⟨_, -, rfl⟩ | ⟨_, _, -, rfl⟩
  case inr.inr.inl =>
    obtain ⟨h1, h2, -⟩ := exec_environment h
    exact ⟨h2, h1⟩
  all_goals simp [State.resetBlock]

/-! ## Runs of a script -/

@[simp] theorem runScript_nil (s : State) : runScript [] s = .next (s.setScript []) := rfl

theorem run_of_step {M : Host.Core} {k : Nat} {s t : M.State} (h : M.step s = .next t) :
    M.run (k + 1) s = M.run k t := by
  rw [Host.Core.run, h]

/-- A run serves its first event and goes on with the rest. -/
theorem runScript_cons {e : HostEvent} {es : List HostEvent} {s t : State}
    (h : serve e (s.setScript es) = .next t) : runScript (e :: es) s = runScript es t := by
  have hs : t.setScript es = t := by
    conv_lhs => rw [show es = t.script from ((serve_environment h).1).symm]
    exact State.setScript_self t
  have hstep : Sys2Proof.core.step (s.setScript (e :: es)) = .next t := h
  exact (run_of_step hstep).trans (congrArg (Sys2Proof.core.run es.length) hs.symm)

end Sys2Proof.Machine
end

