-- ==== Sys2Proof/Tests/Slice0.lean ====
section
/-! SUPPORT. Tests: command words written out from spec/30_encoding.md R81, the checks of WellFormed on
ill-formed terms, single steps with the values of spec/95_test_vectors.md (V<n>, S<n>), and for every
statement with hypotheses a concrete witness that meets them. -/

namespace Sys2Proof.Tests

open Sys2Proof.Machine

/-! ## Helpers -/

/-- The state after a step or a meaning, if it is a next state. -/
def nextState? : Result → Option State
  | .next t => some t
  | _ => none

/-- The reset state with `CAP = 64` (spec/95_test_vectors.md assumes at least that) and `b` loaded. -/
def loaded (b : List Byte) : State :=
  { State.reset with
    cap := 64
    block := { Block.reset with
      ibuf := Memory.writeBytes [] 0 b
      ilen := BitVec.ofNat 64 b.length } }

/-- The block after one command on the buffer `b`. -/
def after (i : Instr) (b : List Byte) : Option Block :=
  (nextState? (exec i (loaded b))).map State.block

/-- The output image. -/
def imageOf (b : Block) : List (Option Byte) := (List.range b.olen.toNat).map b.obuf.read?

/-- The last response after serving one event. -/
def answer (e : HostEvent) (s : State) : Option Response :=
  (nextState? (step (s.setScript [e]))).bind fun t => t.responses.getLast?

/-- `hello world` signed, the input of V38 and the image of V42. -/
def helloSigned : List Byte :=
  [0x68#8, 0x65#8, 0x6C#8, 0x6C#8, 0x6F#8, 0x20#8, 0x77#8, 0x6F#8, 0x72#8, 0x6C#8, 0x64#8,
    0xDA#8, 0xCD#8, 0xD0#8, 0x6C#8, 0x6F#8, 0x20#8, 0x77#8, 0x6F#8, 0xFF#8]

/-- `ABCDE` signed, the input of V29 and V31. -/
def abcdeSigned : List Byte :=
  [0x41#8, 0x42#8, 0x43#8, 0x44#8, 0x45#8, 0x41#8, 0x42#8, 0x43#8, 0x44#8, 0x45#8,
    0x00#8, 0x00#8, 0x00#8, 0xFF#8]

/-! ## Command words (R81, R82) -/

theorem test_decode_hash : decode 0b00000001#8 = .ok .hash := by decide
theorem test_decode_encode : decode 0b00000010#8 = .ok .encode := by decide
theorem test_decode_tryDecode : decode 0b00000011#8 = .ok .tryDecode := by decide
theorem test_decode_classify : decode 0b00000100#8 = .ok .classify := by decide
theorem test_decode_add : decode 0b00000101#8 = .ok .add := by decide
theorem test_decode_remove : decode 0b00000110#8 = .ok .remove := by decide
theorem test_decode_resign : decode 0b00000111#8 = .ok .resign := by decide

/-- No word matches two rows of the opcode map. -/
theorem test_opcode_rows_do_not_overlap :
    opcodeTable.Pairwise fun r q => r.pattern &&& q.mask ≠ q.pattern := by decide

theorem test_table_word_add : decodeTableWord 8 5 = some .add := by decide
theorem test_table_word_reserved : decodeTableWord 8 8 = none := by decide
theorem test_table_word_not_eight_bits : decodeTableWord 3 5 = none ∧ decodeTableWord 16 5 = none := by
  decide

/-! ## Ill-formed words are refused (R82, V57) -/

theorem test_wellFormed_zero_refused : opcodeDefined 0x00#8 = false := by decide
theorem test_wellFormed_eight_refused : opcodeDefined 0x08#8 = false := by decide
theorem test_wellFormed_ff_refused : opcodeDefined 0xFF#8 = false := by decide
theorem test_wellFormed_instr (i : Instr) :
    i.wellFormed = true ∧ opcodeDefined (encode i) = true := by cases i <;> decide
theorem test_decode_zero_refused : decode 0x00#8 = .error (.reservedOpcode 0x00#8) := by decide
theorem test_decode_ff_refused : decode 0xFF#8 = .error (.reservedOpcode 0xFF#8) := by decide

/-! ## A word placed by the host is the next step's command -/

theorem test_fetch_word_runs :
    step (State.reset.withFetchWord 8 5) = exec .add State.reset := rfl

theorem test_fetch_word_effect :
    ((nextState? (step (State.reset.withFetchWord 8 5))).map fun t => imageOf t.block) =
      some [some 0, some 0, some 0, some 0, some 0, some 0, some 0, some 0, some 0xFF] := by
  decide +kernel

/-! ## BlockHasher -/

/-- V5 -/
theorem test_hash_two_blocks :
    (after .hash [1#8, 2#8, 3#8, 4#8, 5#8, 6#8, 7#8, 8#8, 9#8]).map Block.hash =
      some 0x080706050403060A#64 := by decide +kernel

/-- V18: stale bytes beyond `ILEN` are masked. -/
theorem test_hash_masks_stale_bytes :
    (nextState? (exec .hash { loaded (List.replicate 16 0xAA#8) with
      block := { (loaded (List.replicate 16 0xAA#8)).block with
        ilen := 5
        ibuf := Memory.writeBytes (Memory.writeBytes [] 0 (List.replicate 16 0xAA#8)) 0
          [0x41#8, 0x42#8, 0x43#8, 0x44#8, 0x45#8] } })).map (·.block.hash) =
      some 0x0000004544434241#64 := by decide +kernel

/-- The small-step check of V5: `ACC`, `IDX` and `BLK` after the run. -/
theorem test_hasher_small_steps :
    (loaded [1#8, 2#8, 3#8, 4#8, 5#8, 6#8, 7#8, 8#8, 9#8]).runHasher 9 =
      ⟨0x080706050403060A#64, 2#64, 9#64⟩ := by decide +kernel

/-- V14 -/
theorem test_hash_three_blocks :
    blockHash [0x54#8, 0x68#8, 0x65#8, 0x20#8, 0x71#8, 0x75#8, 0x69#8, 0x63#8, 0x6B#8, 0x20#8,
      0x62#8, 0x72#8, 0x6F#8, 0x77#8, 0x6E#8, 0x20#8, 0x66#8, 0x6F#8, 0x78#8] =
      0x83D7ECE0933FF425#64 := by decide +kernel

/-! ## TrailerCodec -/

/-- V21 -/
theorem test_encode_image :
    (nextState? (exec .encode { State.reset with
      block := { Block.reset with hin := 0x0123456789ABCDEF#64 } })).map (fun t => imageOf t.block) =
      some [some 0xEF#8, some 0xCD#8, some 0xAB#8, some 0x89#8, some 0x67#8, some 0x45#8,
        some 0x23#8, some 0x01#8, some 0xFF#8] := by decide +kernel

/-- V29 -/
theorem test_tryDecode_unaligned :
    (after .tryDecode abcdeSigned).map (fun b => (b.statusByte, b.thash, b.plen)) =
      some (0x04#8, 0x0000004544434241#64, 5#64) := by decide +kernel

/-- V26: the flag gate. -/
theorem test_tryDecode_flag_gate :
    (after .tryDecode (List.replicate 8 0x00#8 ++ [0xFE#8])).map (fun b => (b.tv, b.plen)) =
      some (false, 0#64) := by decide +kernel

/-! ## SignatureDetector -/

/-- V31: the trailer bytes that share the payload's last block are masked. -/
theorem test_classify_masks_trailer :
    (after .classify abcdeSigned).map (fun b => (b.statusByte, b.plen, b.thash, b.hash)) =
      some (0x05#8, 5#64, 0x0000004544434241#64, 0x0000004544434241#64) := by decide +kernel

/-- V39a: one payload byte changed. -/
theorem test_classify_tampered :
    (after .classify (helloSigned.set 0 0x48#8)).map
      (fun b => (b.statusByte, b.plen, b.thash, b.hash)) =
      some (0x06#8, 11#64, 0x6F77206F6CD0CDDA#64, 0x6F77206F6CD0CDBA#64) := by decide +kernel

/-! ## SignatureOperations -/

/-- V42 -/
theorem test_add_hello :
    (after .add (helloSigned.take 11)).map (fun b => (b.statusByte, b.plen, b.hash, imageOf b)) =
      some (0x00#8, 11#64, 0x6F77206F6CD0CDDA#64, helloSigned.map some) := by decide +kernel

/-- R170 (a), V45: trailer-shaped data loses its last nine bytes. -/
theorem test_add_trailer_shaped_data :
    (after .add [1#8, 2#8, 3#8, 4#8, 5#8, 6#8, 7#8, 8#8, 0xFF#8]).map
      (fun b => (b.statusByte, imageOf b)) =
      some (0x06#8, (List.replicate 8 0x00#8 ++ [0xFF#8]).map some) := by decide +kernel

/-- V46 -/
theorem test_remove_signed :
    (after .remove [0x68#8, 0x69#8, 0x68#8, 0x69#8, 0#8, 0#8, 0#8, 0#8, 0#8, 0#8, 0xFF#8]).map
      (fun b => (b.statusByte, b.olen, imageOf b)) =
      some (0x05#8, 2#64, [some 0x68#8, some 0x69#8]) := by decide +kernel

/-- V47: unsigned input, `HASH` kept. -/
theorem test_remove_unsigned :
    (after .remove (abcdeSigned.take 5)).map (fun b => (b.statusByte, b.hash, imageOf b)) =
      some (0x00#8, 0#64, (abcdeSigned.take 5).map some) := by decide +kernel

/-- V48 -/
theorem test_resign_tampered :
    (after .resign (helloSigned.set 0 0x48#8)).map
      (fun b => (b.statusByte, b.thash, b.hash, imageOf b)) =
      some (0x06#8, 0x6F77206F6CD0CDDA#64, 0x6F77206F6CD0CDBA#64,
        ((helloSigned.set 0 0x48#8).set 11 0xBA#8).map some) := by decide +kernel

/-! ## Host transactions -/

/-- V50 -/
theorem test_rdr_cmd : answer (.rdr 0) (loaded []) = some (.err .access) := by decide +kernel
/-- V58 -/
theorem test_rdr_status : answer (.rdr 1) (loaded []) = some (.okByte 0#8) := by decide +kernel
/-- V52 -/
theorem test_rdr_absent : answer (.rdr 8) (loaded []) = some (.err .address) := by decide +kernel
/-- V51 -/
theorem test_wrr_status : answer (.wrr 1 0#8) (loaded []) = some (.err .access) := by
  decide +kernel
/-- V52 -/
theorem test_wrr_absent : answer (.wrr 255 1#64) (loaded []) = some (.err .address) := by
  decide +kernel
/-- V53 -/
theorem test_wrr_ilen_cap : answer (.wrr 2 64#64) (loaded []) = some .ok := by decide +kernel
/-- V53 -/
theorem test_wrr_ilen_over : answer (.wrr 2 65#64) (loaded []) = some (.err .length) := by
  decide +kernel
/-- V54 -/
theorem test_wri_last : answer (.wri 63 0x5A#8) (loaded []) = some .ok := by decide +kernel
/-- V54 -/
theorem test_wri_over : answer (.wri 64 0x00#8) (loaded []) = some (.err .address) := by
  decide +kernel
/-- V55 -/
theorem test_rdi_value : answer (.rdi 0) (loaded [0x68#8]) = some (.okByte 0x68#8) := by
  decide +kernel
/-- V55 -/
theorem test_rdi_over : answer (.rdi 1) (loaded [0x68#8]) = some (.err .address) := by
  decide +kernel
/-- V56 -/
theorem test_rdo_empty : answer (.rdo 0) (loaded []) = some (.err .address) := by decide +kernel
/-- V57 -/
theorem test_cmd_reserved : answer (.wrr 0 0x08#8) (loaded []) = some (.err .illegalCmd) := by
  decide +kernel

/-! ## Witnesses: a concrete state and operands that meet a statement's hypotheses -/

theorem loaded_inputIs_abcdeSigned : (loaded abcdeSigned).InputIs abcdeSigned :=
  ⟨by decide +kernel, by decide +kernel⟩

theorem loaded_inputIs_abcde : (loaded (abcdeSigned.take 5)).InputIs (abcdeSigned.take 5) :=
  ⟨by decide +kernel, by decide +kernel⟩

theorem loaded_inputIs_empty : (loaded []).InputIs [] := ⟨by decide +kernel, by decide +kernel⟩

theorem witness_ReservedOpcodesHaveNoEffect :
    ((0x00#8).toNat = 0 ∨ 8 ≤ (0x00#8).toNat) ∧ ((0x08#8).toNat = 0 ∨ 8 ≤ (0x08#8).toNat) ∧
      ((0xFF#8).toNat = 0 ∨ 8 ≤ (0xFF#8).toNat) := by decide

theorem witness_CommandIssueRunsDecodedCommand :
    decode 0x01#8 = .ok .hash ∧ decode 0x07#8 = .ok .resign ∧
      ∃ e, decode 0x08#8 = .error e :=
  ⟨by decide, by decide, .reservedOpcode 0x08#8, by decide⟩

theorem witness_RegisterWriteResponds :
    (8 ≤ 8 ∧ 8 ≤ 255) ∧ ∀ k : Nat, k = 1 ∨ k = 7 → k = 1 ∨ k = 3 ∨ k = 5 ∨ k = 6 ∨ k = 7 :=
  ⟨by decide, fun k h => by rcases h with rfl | rfl <;> decide⟩

theorem witness_InputByteWriteStoresOneByte :
    (loaded []).cap.val ≤ 64 ∧ 63 < (loaded []).cap.val ∧ 0 < (loaded []).cap.val := by decide

theorem witness_InputByteReadResponds :
    (loaded [0x68#8]).block.ilen.toNat ≤ 1 ∧ 0 < (loaded [0x68#8]).block.ilen.toNat ∧
      (loaded [0x68#8]).block.ibuf.read? 0 = some 0x68#8 ∧
      0 < ((loaded []).block.setIlen 1).ilen.toNat ∧
      ((loaded []).block.setIlen 1).ibuf.read? 0 = none := by decide

/-- The state after ENCODE from reset: the image is nine bytes, address 8 the last. -/
theorem witness_OutputByteReadResponds :
    ∃ t, exec .encode (loaded []) = .next t ∧ t.block.olen.toNat ≤ 9 ∧ 8 < t.block.olen.toNat ∧
      t.block.obuf.read? 8 = some 0xFF#8 := ⟨_, rfl, by decide +kernel⟩

theorem witness_FailedTransactionChangesNothing :
    ∃ t, step ((loaded []).setScript [.rdr 0]) = .next t ∧
      t.responses = (loaded []).responses ++ [.err .access] := ⟨_, rfl, by decide +kernel⟩

theorem witness_EveryTransactionRespondsOnce :
    (HostEvent.rdr 0 ≠ .reset) ∧ (HostEvent.wrr 0 5#8 ≠ .reset) := by decide

theorem witness_HashWritesHashOfBuffer : (loaded abcdeSigned).InputIs abcdeSigned :=
  loaded_inputIs_abcdeSigned

theorem witness_HasherRunIsCeilAbsorbSteps :
    (9 < 2 ^ 64 ∧ 2 ≤ nblocks 9) ∧ (0 < 2 ^ 64 ∧ 0 ≤ nblocks 0) := by decide

theorem witness_EncodeWritesTrailerOfHin : 0 < 8 ∧ 7 < 8 := by decide

theorem witness_TryDecodeLatchesTrailer :
    (loaded abcdeSigned).InputIs abcdeSigned ∧ (tryDecode abcdeSigned).isSome ∧
      (loaded []).InputIs [] ∧ tryDecode [] = none :=
  ⟨loaded_inputIs_abcdeSigned, by decide +kernel, loaded_inputIs_empty, by decide +kernel⟩

theorem witness_ClassifyRecordsClassification :
    (loaded abcdeSigned).InputIs abcdeSigned ∧ (tryDecode abcdeSigned).isSome ∧
      (loaded []).InputIs [] ∧ tryDecode [] = none :=
  ⟨loaded_inputIs_abcdeSigned, by decide +kernel, loaded_inputIs_empty, by decide +kernel⟩

theorem witness_AddWritesSignedImage :
    (loaded (abcdeSigned.take 5)).InputIs (abcdeSigned.take 5) ∧
      13 < (classify (abcdeSigned.take 5)).2.length + 9 :=
  ⟨loaded_inputIs_abcde, by decide +kernel⟩

theorem witness_RemoveWritesPayload :
    (loaded abcdeSigned).InputIs abcdeSigned ∧ 4 < (classify abcdeSigned).2.length :=
  ⟨loaded_inputIs_abcdeSigned, by decide +kernel⟩

theorem witness_ResignWritesFreshTrailer :
    (loaded abcdeSigned).InputIs abcdeSigned ∧ 13 < (classify abcdeSigned).2.length + 9 :=
  ⟨loaded_inputIs_abcdeSigned, by decide +kernel⟩

/-- ADD on a buffer with one byte written and one never written, and on one that ends with a trailer:
both cases of `TV` occur. -/
theorem witness_UnwrittenBytesAreFreeInImages :
    (∃ t, exec .add ((loaded [0x68#8]).setBlock ((loaded [0x68#8]).block.setIlen 2)) = .next t ∧
      t.block.tv = false ∧ 0 < t.block.plen.toNat ∧
      ((loaded [0x68#8]).setBlock ((loaded [0x68#8]).block.setIlen 2)).block.ibuf.read? 0 =
        some 0x68#8) ∧
      ∃ t, exec .resign (loaded abcdeSigned) = .next t ∧ t.block.tv = true ∧ 4 < t.block.plen.toNat :=
  ⟨⟨_, rfl, by decide +kernel, by decide +kernel, by decide +kernel⟩,
    _, rfl, by decide +kernel, by decide +kernel⟩

theorem witness_RegisterCommandsFrame :
    (∃ t, exec .hash (loaded []) = .next t) ∧ (∃ t, exec .tryDecode (loaded []) = .next t) ∧
      (∃ t, exec .classify (loaded []) = .next t) ∧ (loaded []).decodeTrailer = none :=
  ⟨⟨_, rfl⟩, ⟨_, rfl⟩, ⟨_, rfl⟩, by decide +kernel⟩

theorem witness_ImageCommandsFrame :
    (∃ t, exec .encode (loaded []) = .next t) ∧ (∃ t, exec .add (loaded []) = .next t) ∧
      (∃ t, exec .remove (loaded []) = .next t) ∧ (∃ t, exec .resign (loaded []) = .next t) ∧
      (loaded []).decodeTrailer = none :=
  ⟨⟨_, rfl⟩, ⟨_, rfl⟩, ⟨_, rfl⟩, ⟨_, rfl⟩, by decide +kernel⟩

theorem witness_LittleEndianConversion :
    (0 < 8 ∧ 7 < 8) ∧ (List.replicate 8 0xFF#8).length = 8 := by decide

theorem witness_HashIgnoresPaddingZeros :
    3 ≤ padlen (abcdeSigned.take 5).length ∧ 0 ≤ padlen ([] : List Byte).length ∧
      (List.replicate 8 0x00#8).length = 8 * 1 := by decide

theorem witness_HashDependsOnBufferAlone :
    (loaded abcdeSigned).InputIs abcdeSigned ∧
      ((loaded abcdeSigned).setBlock ((loaded abcdeSigned).block.setHash 7)).InputIs
        abcdeSigned := ⟨loaded_inputIs_abcdeSigned, loaded_inputIs_abcdeSigned⟩

theorem witness_OneByteChangesHash :
    4 < (abcdeSigned.take 5).length ∧ (abcdeSigned.take 5)[4]? ≠ some 0x46#8 := by decide

theorem witness_HashIsNotInjective :
    (List.replicate 8 0x00#8).length = 8 * 1 ∧ ([] : List Byte).length = 8 * 0 := by decide

theorem witness_DecodeBoundaryAndFlagGate :
    (List.replicate 8 0xFF#8).length ≤ 8 ∧
      9 ≤ (List.replicate 8 0x00#8 ++ [0xFE#8]).length ∧
      (List.replicate 8 0x00#8 ++ [0xFE#8]).getLast? = some 0xFE#8 ∧ 0xFE#8 ≠ 0xFF#8 ∧
      9 ≤ (List.replicate 9 0xFF#8).length ∧
      (List.replicate 9 0xFF#8).getLast? = some 0xFF#8 := by decide

theorem witness_ClassifyBoundaryAndFlagGate :
    (List.replicate 8 0xFF#8).length ≤ 8 ∧
      9 ≤ (List.replicate 8 0x00#8 ++ [0xFE#8]).length ∧
      (List.replicate 8 0x00#8 ++ [0xFE#8]).getLast? = some 0xFE#8 ∧ 0xFE#8 ≠ 0xFF#8 := by decide

theorem witness_ReclassifyingPayload :
    trailerShaped (classify abcdeSigned).2 = false := by decide +kernel

theorem witness_TamperDetection :
    (0 < (abcdeSigned.take 5).length ∧ (abcdeSigned.take 5)[0]? ≠ some 0x48#8) ∧
      0xFE#8 ≠ 0xFF#8 ∧ 7 < 8 ∧
      (trailer (blockHash (abcdeSigned.take 5)))[7]? ≠ some 0x01#8 := by decide +kernel

theorem witness_TrailerValidAgreesWithStatus :
    Instr.resign = .classify ∨ Instr.resign = .add ∨ Instr.resign = .remove ∨
      Instr.resign = .resign := by decide

theorem witness_AddOnSignedInputReturnsIt :
    (loaded abcdeSigned).InputIs (abcdeSigned.take 5 ++ trailer (blockHash (abcdeSigned.take 5))) := by
  rw [show abcdeSigned.take 5 ++ trailer (blockHash (abcdeSigned.take 5)) = abcdeSigned from by
    decide +kernel]
  exact loaded_inputIs_abcdeSigned

theorem witness_AddKeepsKnownLimitations :
    ((loaded abcdeSigned).InputIs abcdeSigned ∧ trailerShaped abcdeSigned = true) ∧
      ((loaded []).InputIs [] ∧ trailerShaped [] = false) ∧
      (0xFE#8 ≠ 0xFF#8 ∧ (loaded ([0x41#8] ++ leBytes64 0x41#64 ++ [] ++ [0xFE#8])).InputIs
        ([0x41#8] ++ leBytes64 0x41#64 ++ [] ++ [0xFE#8])) ∧
      0x0A#8 ≠ 0xFF#8 ∧ (loaded ([0x41#8] ++ leBytes64 0x41#64 ++ [0xFF#8, 0x0D#8] ++ [0x0A#8])).InputIs
        ([0x41#8] ++ leBytes64 0x41#64 ++ [0xFF#8, 0x0D#8] ++ [0x0A#8]) :=
  ⟨⟨loaded_inputIs_abcdeSigned, by decide +kernel⟩, ⟨loaded_inputIs_empty, by decide⟩,
    ⟨by decide, by decide +kernel, by decide +kernel⟩, by decide, by decide +kernel,
    by decide +kernel⟩

theorem witness_ReplayKeepsState :
    (loaded abcdeSigned).InputIs abcdeSigned ∧ (loaded abcdeSigned).block.obuf.wf :=
  ⟨loaded_inputIs_abcdeSigned, by decide⟩

/-- Two memories that agree below `ILEN` and differ above it. -/
theorem witness_BytesBeyondIlenAreIrrelevant :
    (∀ a, a < (loaded [0x68#8]).block.ilen.toNat →
      Memory.read? [(0, 0x68#8), (1, 0xAA#8)] a = (loaded [0x68#8]).block.ibuf.read? a) ∧
      Memory.read? [(0, 0x68#8), (1, 0xAA#8)] 1 ≠ (loaded [0x68#8]).block.ibuf.read? 1 := by
  decide +kernel

theorem witness_StepKeepsInvariant :
    (State.reset.setScript [.wrr 0 5#8]).Inv ∧
      ∃ t, step (State.reset.setScript [.wrr 0 5#8]) = .next t := by
  refine ⟨?_, _, rfl⟩
  constructor <;> simp [State.reset, State.setScript, Block.reset]

theorem witness_CommandsRightAfterReset : State.reset.block = Block.reset := rfl

theorem witness_LoadFillsInputBuffer :
    (List.replicate 64 0x41#8).length ≤ (loaded []).cap.val := by decide

theorem witness_DumpReturnsImage :
    ∃ t, exec .encode (loaded []) = .next t ∧ t.ImageIs (List.replicate 8 0x00#8 ++ [0xFF#8]) :=
  ⟨_, rfl, by decide +kernel, by decide +kernel⟩

theorem witness_RoundTripThroughCommands :
    (List.replicate 55 0x41#8).length + 9 ≤ (loaded []).cap.val ∧
      trailerShaped (List.replicate 55 0x41#8) = false := by decide +kernel

theorem witness_RemoveUndoesAdd :
    (List.replicate 55 0x41#8).length + 9 ≤ (loaded []).cap.val ∧
      trailerShaped (classify (List.replicate 55 0x41#8)).2 = false := by decide +kernel

end Sys2Proof.Tests
end

/-! SUPPORT. The statements of spec/00_scope.md: the idle core (R7) and the byte order (R13). -/

namespace Sys2Proof.Machine

/-- R7: the core acts only on a host event. -/
theorem step_of_script_nil {s : State} (h : s.script = []) : step s = .next s := by
  rw [step, h]

/-- Settles O4: the script of the state is empty, so its step has nothing to serve. -/
theorem idleCoreKeepsState : Obligations.IdleCoreKeepsState := fun s =>
  step_of_script_nil (State.setScript_script s [])

/-- R13: `LE64` of eight bytes weights byte `j` by `2^(8j)`. -/
theorem le64_toNat_eq_sum (s0 s1 s2 s3 s4 s5 s6 s7 : Byte) :
    (le64 [s0, s1, s2, s3, s4, s5, s6, s7]).toNat =
      s0.toNat + s1.toNat * 2 ^ 8 + s2.toNat * 2 ^ 16 + s3.toNat * 2 ^ 24 + s4.toNat * 2 ^ 32 +
        s5.toNat * 2 ^ 40 + s6.toNat * 2 ^ 48 + s7.toNat * 2 ^ 56 := by
  rw [le64_toNat rfl]
  simp only [leNat]
  ring

/-- R13: element `j` of `LEbytes64(v)` is the byte `v[8j+7 : 8j]`. -/
theorem leBytes64_getElem? (v : Word) {j : Nat} (hj : j < 8) :
    (leBytes64 v)[j]? = some (leByte v j) := by
  rw [leBytes64, List.getElem?_map, List.getElem?_range hj, Option.map_some]

/-- Settles O28: the sum and the bytes of R13, and the two inverse laws of the byte order. -/
theorem littleEndianConversion : Obligations.LittleEndianConversion :=
  ⟨le64_toNat_eq_sum, fun v _ hj => leBytes64_getElem? v hj,
    fun v => ⟨leBytes64_length v, le64_leBytes64 v⟩, fun _ hs => leBytes64_le64 hs⟩

end Sys2Proof.Machine

/-! SUPPORT. The statements of spec/10_state.md: the invariant of the block (R24, R28, R29, R32, R33), the
frames of the commands (R36), the bytes beyond `ILEN` (R32), `STATUS` (R27) and the reset values (R37). -/

namespace Sys2Proof.Machine

/-! ## What a command does, said once for the seven of them -/

/-- What a command does to the block, before its response. -/
def State.effect (s : State) : Instr → State
  | .hash => s.hashPrefix s.block.ilen.toNat
  | .encode => (s.writeTrailer 0 s.block.hin).setImageLength (BitVec.ofNat 64 Config.trailerBytes)
  | .tryDecode => s.latchTrailer
  | .classify => s.classifyInput
  | .add => s.signInput
  | .remove => s.classifyInput.stripPayload
  | .resign => s.signInput

/-- Whether every byte of `IBUF` that a command may read holds a value; ENCODE reads none (R55). -/
def State.readsHeld (s : State) : Instr → Bool
  | .encode => true
  | _ => s.inputComplete

theorem exec_eq (i : Instr) (s : State) :
    exec i s = .next ((s.effect i).endReads (s.readsHeld i)).respondOk := by
  cases i <;> rfl

theorem exec_block {i : Instr} {s t : State} (h : exec i s = .next t) :
    t.block = (s.effect i).block := by
  rw [exec_eq] at h
  obtain rfl := Host.Outcome.next.inj h
  simp

/-- R7, R8: with an event pending, a step serves it. -/
theorem step_of_script_cons {s : State} {e : HostEvent} {rest : List HostEvent}
    (h : s.script = e :: rest) : step s = serve e (s.setScript rest) := by
  rw [step, h]

/-! ## The output image -/

/-- The image `p` stored: its bytes from address 0 of `OBUF`, and its length in `OLEN` (R33). -/
def State.storeImage (s : State) (p : List Byte) : State :=
  s.setBlock ((s.block.setObuf (s.block.obuf.writeBytes 0 p)).setOlen (BitVec.ofNat 64 p.length))

@[simp] theorem State.storeImage_obuf (s : State) (p : List Byte) :
    (s.storeImage p).block.obuf = s.block.obuf.writeBytes 0 p := rfl

@[simp] theorem State.storeImage_olen (s : State) (p : List Byte) :
    (s.storeImage p).block.olen = BitVec.ofNat 64 p.length := rfl

/-- Log entry 7: bytes beyond the image keep their values. -/
theorem State.storeImage_read?_beyond (s : State) {p : List Byte} {a : Nat} (ha : p.length ≤ a) :
    (s.storeImage p).block.obuf.read? a = s.block.obuf.read? a := by
  rw [State.storeImage_obuf, Memory.read?_writeBytes, if_neg (by omega)]

/-- R122: the image of ENCODE. -/
theorem State.effect_encode (s : State) :
    s.effect .encode = s.storeImage (trailer s.block.hin) := by
  rw [State.storeImage, trailer_length]
  rfl

/-- R162: the payload copy and the trailer behind it are one image. -/
theorem State.signPayload_eq (s : State) :
    s.signPayload =
      s.storeImage (s.inputBytes .copy s.block.plen.toNat ++ trailer s.block.hash) := by
  have hbytes := Memory.writeBytes_append s.block.obuf 0
    (s.inputBytes .copy s.block.plen.toNat) (trailer s.block.hash)
  rw [State.inputBytes_length, Nat.zero_add] at hbytes
  have hlen : s.block.plen + BitVec.ofNat 64 Config.trailerBytes =
      BitVec.ofNat 64 (s.block.plen.toNat + 9) := by
    rw [BitVec.ofNat_add, BitVec.ofNat_toNat, BitVec.setWidth_eq]
  rw [State.storeImage, hbytes, List.length_append, State.inputBytes_length, trailer_length, ← hlen]
  rfl

/-- R164: the payload copy is the image of REMOVE. -/
theorem State.stripPayload_eq (s : State) :
    s.stripPayload = s.storeImage (s.inputBytes .copy s.block.plen.toNat) := by
  rw [State.storeImage, State.inputBytes_length, BitVec.ofNat_toNat, BitVec.setWidth_eq]
  rfl

/-! ## The classification phase -/

/-- R124: the payload ends where the trailer begins. -/
theorem State.decodeTrailer_length {s : State} {w n : Word} (h : s.decodeTrailer = some (w, n)) :
    n.toNat + 9 = s.block.ilen.toNat := by
  simp only [State.decodeTrailer, Config.trailerBytes] at h
  split_ifs at h with h9 hflag
  obtain ⟨-, rfl⟩ := Prod.mk.inj (Option.some.inj h)
  bv_omega

theorem State.classifyInput_of_absent {s : State} (h : s.decodeTrailer = none) :
    s.classifyInput = s.setBlock (s.block.flagAbsent.setPlen s.block.ilen) := by
  rw [State.classifyInput, h]

theorem State.latchTrailer_of_absent {s : State} (h : s.decodeTrailer = none) :
    s.latchTrailer = s.setBlock (s.block.setTv false) := by
  rw [State.latchTrailer, h]

/-- R24: the payload a classification finds lies within the input. -/
theorem State.classifyInput_plen_le (s : State) :
    s.classifyInput.block.plen.toNat ≤ s.block.ilen.toNat := by
  unfold State.classifyInput
  split
  · exact le_rfl
  · rename_i w n hd
    have hlen := State.decodeTrailer_length hd
    show n.toNat ≤ _
    omega

/-- R125: TRYDECODE keeps `PLEN` or finds a payload within the input. -/
theorem State.latchTrailer_plen (s : State) :
    s.latchTrailer.block.plen = s.block.plen ∨
      s.latchTrailer.block.plen.toNat ≤ s.block.ilen.toNat := by
  unfold State.latchTrailer
  split
  · exact .inl rfl
  · rename_i w n hd
    have hlen := State.decodeTrailer_length hd
    right
    show n.toNat ≤ _
    omega

/-- R27: a comparison of two hashes never answers `Unsigned`. -/
theorem statusOf_eq_or (expected h : Word) :
    statusOf expected h = .signed ∨ statusOf expected h = .changedData := by
  unfold statusOf
  split
  · exact .inl rfl
  · exact .inr rfl

/-- R27: a classification writes `TV` and `ST` together. -/
theorem State.classifyInput_tv_iff (s : State) :
    s.classifyInput.block.tv = true ↔
      s.classifyInput.block.st = .signed ∨ s.classifyInput.block.st = .changedData := by
  unfold State.classifyInput
  split
  · simp [Block.flagAbsent]
  · simpa [Block.flagPresent] using statusOf_eq_or _ _

/-! ## The invariant -/

/-- R37: a block just reset meets the invariant, whatever the capacity. -/
theorem State.inv_of_block_reset {s : State} (h : s.block = Block.reset) : s.Inv := by
  constructor <;> simp [h, Block.reset]

/-- Settles O46: the lengths are zero and the buffers empty. -/
theorem resetMeetsInvariant : Obligations.ResetMeetsInvariant :=
  State.inv_of_block_reset rfl

namespace State.Inv

variable {s t : State}

/-- The invariant speaks of the capacity, the three lengths and the two buffers only. -/
theorem of_buffers_eq (h : s.Inv) (hcap : t.cap = s.cap)
    (hilen : t.block.ilen.toNat ≤ s.cap.val) (hplen : t.block.plen.toNat ≤ s.cap.val)
    (holen : t.block.olen = s.block.olen) (hibuf : t.block.ibuf = s.block.ibuf)
    (hobuf : t.block.obuf = s.block.obuf) : t.Inv where
  ilen_le := hcap ▸ hilen
  plen_le := hcap ▸ hplen
  olen_le := by rw [hcap, holen]; exact h.olen_le
  ibuf_wf := hibuf ▸ h.ibuf_wf
  obuf_wf := hobuf ▸ h.obuf_wf
  ibuf_lt := by rw [hcap, hibuf]; exact h.ibuf_lt
  obuf_lt := by rw [hcap, hobuf]; exact h.obuf_lt
  image_held := by rw [holen, hobuf]; exact h.image_held

/-- Responses, the script and the draw counter are no part of the invariant. -/
theorem of_block_eq (h : s.Inv) (hcap : t.cap = s.cap) (hblock : t.block = s.block) : t.Inv :=
  h.of_buffers_eq hcap (hblock ▸ h.ilen_le) (hblock ▸ h.plen_le) (by rw [hblock]) (by rw [hblock])
    (by rw [hblock])

theorem hashPrefix (h : s.Inv) (n : Nat) : (s.hashPrefix n).Inv :=
  h.of_buffers_eq rfl h.ilen_le h.plen_le rfl rfl rfl

theorem hashIfAbsent (h : s.Inv) : s.hashIfAbsent.Inv := by
  unfold State.hashIfAbsent
  split
  · exact h
  · exact h.hashPrefix _

theorem classifyInput (h : s.Inv) : s.classifyInput.Inv :=
  h.of_buffers_eq (by simp) (by simpa using h.ilen_le)
    (s.classifyInput_plen_le.trans h.ilen_le) (by simp) (by simp) (by simp)

theorem latchTrailer (h : s.Inv) : s.latchTrailer.Inv := by
  refine h.of_buffers_eq (by simp) (by simpa using h.ilen_le) ?_ (by simp) (by simp) (by simp)
  rcases s.latchTrailer_plen with hkept | hle
  · exact hkept ▸ h.plen_le
  · exact hle.trans h.ilen_le

/-- R60: one byte written within `IBUF`. -/
theorem writeInput (h : s.Inv) {a : Nat} (ha : a < s.cap.val) (v : Byte) :
    (s.setBlock (s.block.setIbuf (s.block.ibuf.write a v))).Inv :=
  { h with
    ibuf_wf := Memory.wf_write h.ibuf_wf a v
    ibuf_lt := fun c hc => by
      rcases Memory.mem_write hc with rfl | hc
      · exact ha
      · exact h.ibuf_lt c hc }

/-- R33: an image no longer than `OBUF` keeps the invariant; its length does not wrap (R10). -/
theorem storeImage (h : s.Inv) {p : List Byte} (hp : p.length ≤ s.cap.val + 9) :
    (s.storeImage p).Inv := by
  have hcap := s.cap.isLt
  have holen : (s.storeImage p).block.olen.toNat = p.length := by
    rw [State.storeImage_olen, BitVec.toNat_ofNat, Nat.mod_eq_of_lt (by omega)]
  exact
    { ilen_le := h.ilen_le
      plen_le := h.plen_le
      ibuf_wf := h.ibuf_wf
      ibuf_lt := h.ibuf_lt
      olen_le := holen.trans_le hp
      obuf_wf := Memory.wf_writeBytes h.obuf_wf 0 p
      obuf_lt := Memory.lt_of_mem_writeBytes h.obuf_lt (by rwa [Nat.zero_add])
      image_held := fun a ha => by
        rw [holen] at ha
        rw [State.storeImage_obuf, Memory.read?_writeBytes, if_pos (by omega)]
        simpa using ha }

theorem signPayload (h : s.Inv) : s.signPayload.Inv := by
  rw [State.signPayload_eq]
  exact h.storeImage (by simpa using h.plen_le)

theorem stripPayload (h : s.Inv) : s.stripPayload.Inv := by
  rw [State.stripPayload_eq]
  exact h.storeImage (by simpa using h.plen_le.trans (Nat.le_add_right _ _))

theorem signInput (h : s.Inv) : s.signInput.Inv :=
  h.classifyInput.hashIfAbsent.signPayload

theorem effect (h : s.Inv) (i : Instr) : (s.effect i).Inv := by
  cases i with
  | hash => exact h.hashPrefix _
  | encode =>
    rw [State.effect_encode]
    exact h.storeImage (by simp)
  | tryDecode => exact h.latchTrailer
  | classify => exact h.classifyInput
  | add => exact h.signInput
  | remove => exact h.classifyInput.stripPayload
  | resign => exact h.signInput

theorem exec {i : Instr} (h : s.Inv) (ht : exec i s = .next t) : t.Inv := by
  rw [exec_eq] at ht
  obtain rfl := Host.Outcome.next.inj ht
  exact (h.effect i).of_block_eq (by simp) (by simp)

theorem serve {e : HostEvent} (h : s.Inv) (ht : serve e s = .next t) : t.Inv := by
  rcases serve_cases ht with ⟨c, rfl⟩ | ⟨-, rfl⟩ | ⟨_, _, -, -, hexec⟩ | ⟨v, -, hv, rfl⟩ |
    ⟨v, -, rfl⟩ | ⟨a, v, -, ha, rfl⟩ | ⟨w, -, rfl⟩ | ⟨held, v, -, rfl⟩
  · exact h.of_block_eq rfl rfl
  · exact State.inv_of_block_reset rfl
  · exact h.exec hexec
  · exact h.of_buffers_eq rfl hv h.plen_le rfl rfl rfl
  · exact h.of_buffers_eq rfl h.ilen_le h.plen_le rfl rfl rfl
  · exact (h.writeInput ha v).of_block_eq rfl rfl
  · exact h.of_block_eq rfl rfl
  · exact h.of_block_eq (by simp) (by simp)

end State.Inv

/-- Settles O47: a step serves at most one event, and each event served keeps the invariant. -/
theorem stepKeepsInvariant : Obligations.StepKeepsInvariant := by
  intro s t h ht
  cases hs : s.script with
  | nil =>
    rw [step_of_script_nil hs] at ht
    exact Host.Outcome.next.inj ht ▸ h
  | cons e rest =>
    rw [step_of_script_cons hs] at ht
    have hrest : (s.setScript rest).Inv := h.of_block_eq rfl rfl
    exact hrest.serve ht

/-! ## Frames of the commands -/

/-- R36: TRYDECODE writes `TV`, `THASH` and `PLEN` at most. -/
theorem State.latchTrailer_frame (s : State) :
    s.latchTrailer.block =
      { s.block with
        tv := s.latchTrailer.block.tv
        thash := s.latchTrailer.block.thash
        plen := s.latchTrailer.block.plen } := by
  apply Block.eq_of_fields <;> simp

/-- R36: CLASSIFY writes `STATUS`, `PLEN`, `THASH`, `HASH` and the hidden registers at most. -/
theorem State.classifyInput_frame (s : State) :
    s.classifyInput.block =
      { s.block with
        tv := s.classifyInput.block.tv
        st := s.classifyInput.block.st
        plen := s.classifyInput.block.plen
        thash := s.classifyInput.block.thash
        hash := s.classifyInput.block.hash
        hasher := s.classifyInput.block.hasher } := by
  apply Block.eq_of_fields <;> simp

/-- R36: HASH, TRYDECODE and CLASSIFY write neither buffer. -/
theorem exec_register_buffers {i : Instr} {s t : State}
    (hi : i = .hash ∨ i = .tryDecode ∨ i = .classify) (h : exec i s = .next t) :
    t.block.ibuf = s.block.ibuf ∧ t.block.obuf = s.block.obuf := by
  rw [exec_block h]
  rcases hi with rfl | rfl | rfl <;> simp [State.effect]

/-- Settles O26, from what each of the three commands does to the block. -/
theorem registerCommandsFrame : Obligations.RegisterCommandsFrame := by
  refine fun s t => ⟨fun h => ?_, fun h => ?_, fun h => ?_, fun i hi h a => ?_⟩
  · rw [exec_block h]
    rfl
  · rw [exec_block h]
    refine ⟨s.latchTrailer_frame, fun habsent => ?_⟩
    rw [State.effect, State.latchTrailer_of_absent habsent]
    rfl
  · rw [exec_block h]
    refine ⟨s.classifyInput_frame, fun habsent => ?_⟩
    rw [State.effect, State.classifyInput_of_absent habsent]
    rfl
  · obtain ⟨hibuf, hobuf⟩ := exec_register_buffers hi h
    exact ⟨by rw [hibuf], by rw [hobuf]⟩

/-- R36: whatever a command writes, `HIN`, `ILEN` and `IBUF` are not among it. -/
theorem exec_frame {i : Instr} {s t : State} (h : exec i s = .next t) :
    t.block =
      { s.block with
        tv := t.block.tv
        st := t.block.st
        plen := t.block.plen
        thash := t.block.thash
        hash := t.block.hash
        hasher := t.block.hasher
        obuf := t.block.obuf
        olen := t.block.olen } := by
  obtain ⟨-, -, -, hhin, hilen, hibuf⟩ := exec_environment h
  exact Block.eq_of_fields hhin rfl rfl rfl rfl rfl hilen rfl hibuf rfl rfl

/-- What ADD, REMOVE and RESIGN do after the classification phase leaves `STATUS` and
`THASH`. -/
theorem effect_image_registers {i : Instr} (s : State)
    (hi : i = .add ∨ i = .remove ∨ i = .resign) :
    (s.effect i).block.tv = s.classifyInput.block.tv ∧
      (s.effect i).block.st = s.classifyInput.block.st ∧
      (s.effect i).block.thash = s.classifyInput.block.thash := by
  rcases hi with rfl | rfl | rfl <;> simp [State.effect, State.signInput]

/-- Log entry 7: signing leaves `OBUF` from the end of the trailer on. -/
theorem State.signInput_read?_beyond (s : State) {a : Nat}
    (ha : s.classifyInput.block.plen.toNat + 9 ≤ a) :
    s.signInput.block.obuf.read? a = s.block.obuf.read? a := by
  rw [State.signInput, State.signPayload_eq, State.storeImage_read?_beyond _ (by simpa using ha)]
  simp

/-- Log entry 7: REMOVE leaves `OBUF` from the end of the payload on. -/
theorem State.stripInput_read?_beyond (s : State) {a : Nat}
    (ha : s.classifyInput.block.plen.toNat ≤ a) :
    s.classifyInput.stripPayload.block.obuf.read? a = s.block.obuf.read? a := by
  rw [State.stripPayload_eq, State.storeImage_read?_beyond _ (by simpa using ha)]
  simp

/-- Settles O27: the registers by `exec_frame`, `OBUF` by the length of the image stored. -/
theorem imageCommandsFrame : Obligations.ImageCommandsFrame := by
  refine fun s t => ⟨fun h => ?_, fun i hi h => ⟨exec_frame h, fun habsent => ?_, fun a ha => ?_⟩,
    fun h habsent => ?_⟩
  · rw [exec_block h]
    refine ⟨rfl, fun a ha => ?_⟩
    rw [State.effect_encode, State.storeImage_read?_beyond _ (by simpa using ha)]
  · obtain ⟨-, -, hthash⟩ := effect_image_registers s hi
    rw [exec_block h, hthash, State.classifyInput_of_absent habsent]
    rfl
  · rw [exec_block h]
    rcases hi with rfl | rfl | rfl
    · exact s.signInput_read?_beyond ha
    · exact s.stripInput_read?_beyond ha
    · exact s.signInput_read?_beyond ha
  · rw [exec_block h]
    simp [State.effect, State.classifyInput_of_absent habsent, Block.flagAbsent]

/-! ## Bytes at or above `ILEN` -/

/-- The state with another input buffer. -/
def State.withInput (s : State) (m : Memory) : State := s.setBlock (s.block.setIbuf m)

/-- `m` reads as the input buffer does below `ILEN`. -/
def State.SameInput (s : State) (m : Memory) : Prop :=
  ∀ a, a < s.block.ilen.toNat → m.read? a = s.block.ibuf.read? a

theorem State.endReads_withInput (s : State) (m : Memory) (held : Bool) :
    (s.withInput m).endReads held = (s.endReads held).withInput m := by
  cases held <;> rfl

namespace State.SameInput

variable {s : State} {m : Memory}

theorem of_input_eq {t : State} (h : s.SameInput m) (hilen : t.block.ilen = s.block.ilen)
    (hibuf : t.block.ibuf = s.block.ibuf) : t.SameInput m := by
  unfold State.SameInput
  rw [hilen, hibuf]
  exact h

/-! ### Every read of a command (R55) is below `ILEN` -/

theorem inputByte (h : s.SameInput m) (u : Config.Access) {a : Nat}
    (ha : a < s.block.ilen.toNat) : (s.withInput m).inputByte u a = s.inputByte u a :=
  congrArg (s.valueOr u a) (h a ha)

theorem inputBytes (h : s.SameInput m) (u : Config.Access) {n : Nat}
    (hn : n ≤ s.block.ilen.toNat) : (s.withInput m).inputBytes u n = s.inputBytes u n :=
  List.map_congr_left fun _ ha => h.inputByte u ((List.mem_range.mp ha).trans_le hn)

theorem inputComplete (h : s.SameInput m) : (s.withInput m).inputComplete = s.inputComplete := by
  rw [State.inputComplete, State.inputComplete, Bool.eq_iff_iff, List.all_eq_true, List.all_eq_true]
  refine forall₂_congr fun a ha => ?_
  rw [← h a (List.mem_range.mp ha)]
  rfl

theorem readsHeld (h : s.SameInput m) (i : Instr) :
    (s.withInput m).readsHeld i = s.readsHeld i := by
  cases i with
  | encode => rfl
  | _ => exact h.inputComplete

theorem flagByte (h : s.SameInput m) (h9 : 9 ≤ s.block.ilen.toNat) :
    (s.withInput m).flagByte = s.flagByte :=
  h.inputByte .flag (show s.block.ilen.toNat - 1 < s.block.ilen.toNat by omega)

theorem trailerHash (h : s.SameInput m) (h9 : 9 ≤ s.block.ilen.toNat) :
    (s.withInput m).trailerHash = s.trailerHash := by
  refine congrArg le64 (List.map_congr_left fun j hj => h.inputByte .trailer ?_)
  have hj8 : j < 8 := List.mem_range.mp hj
  show s.block.ilen.toNat - 9 + j < s.block.ilen.toNat
  omega

/-- R124: the length test comes first, and behind it every read is below `ILEN`. -/
theorem decodeTrailer (h : s.SameInput m) : (s.withInput m).decodeTrailer = s.decodeTrailer := by
  unfold State.decodeTrailer
  by_cases h9 : s.block.ilen.toNat < Config.trailerBytes
  · rw [if_pos h9]
    exact if_pos h9
  · rw [h.flagByte (not_lt.mp h9), h.trailerHash (not_lt.mp h9)]
    rfl

/-! ### Every shared operation does the same on both input buffers -/

theorem hashPrefix (h : s.SameInput m) {n : Nat} (hn : n ≤ s.block.ilen.toNat) :
    (s.withInput m).hashPrefix n = (s.hashPrefix n).withInput m := by
  have hlt : n < 2 ^ 64 := hn.trans_lt s.block.ilen.isLt
  rw [State.hashPrefix_eq _ hlt, State.hashPrefix_eq _ hlt, h.inputBytes .block hn]
  rfl

theorem latchTrailer (h : s.SameInput m) :
    (s.withInput m).latchTrailer = s.latchTrailer.withInput m := by
  unfold State.latchTrailer
  rw [h.decodeTrailer]
  cases s.decodeTrailer <;> rfl

theorem classifyInput (h : s.SameInput m) :
    (s.withInput m).classifyInput = s.classifyInput.withInput m := by
  unfold State.classifyInput
  rw [h.decodeTrailer]
  cases hd : s.decodeTrailer with
  | none => rfl
  | some c =>
    obtain ⟨w, n⟩ := c
    have hlen := State.decodeTrailer_length hd
    simp only [h.hashPrefix (show n.toNat ≤ s.block.ilen.toNat by omega)]
    rfl

theorem hashIfAbsent (h : s.SameInput m) (hplen : s.block.plen.toNat ≤ s.block.ilen.toNat) :
    (s.withInput m).hashIfAbsent = s.hashIfAbsent.withInput m := by
  unfold State.hashIfAbsent
  by_cases htv : s.block.tv = true
  · rw [if_pos htv]
    exact if_pos htv
  · rw [if_neg htv]
    exact (if_neg htv).trans (h.hashPrefix hplen)

theorem signPayload (h : s.SameInput m) (hplen : s.block.plen.toNat ≤ s.block.ilen.toNat) :
    (s.withInput m).signPayload = s.signPayload.withInput m := by
  rw [State.signPayload_eq, State.signPayload_eq, ← h.inputBytes .copy hplen]
  rfl

theorem stripPayload (h : s.SameInput m) (hplen : s.block.plen.toNat ≤ s.block.ilen.toNat) :
    (s.withInput m).stripPayload = s.stripPayload.withInput m := by
  rw [State.stripPayload_eq, State.stripPayload_eq, ← h.inputBytes .copy hplen]
  rfl

theorem afterClassify (h : s.SameInput m) : s.classifyInput.SameInput m :=
  h.of_input_eq (by simp) (by simp)

theorem signInput (h : s.SameInput m) :
    (s.withInput m).signInput = s.signInput.withInput m := by
  have hplen := s.classifyInput_plen_le
  rw [State.signInput, State.signInput, h.classifyInput,
    h.afterClassify.hashIfAbsent (by simpa using hplen),
    (h.afterClassify.of_input_eq (by simp) (by simp)).signPayload (by simpa using hplen)]

theorem effect (h : s.SameInput m) (i : Instr) :
    (s.withInput m).effect i = (s.effect i).withInput m := by
  cases i with
  | hash => exact h.hashPrefix le_rfl
  | encode => rfl
  | tryDecode => exact h.latchTrailer
  | classify => exact h.classifyInput
  | add => exact h.signInput
  | remove =>
    rw [State.effect, State.effect, h.classifyInput]
    exact h.afterClassify.stripPayload (by simpa using s.classifyInput_plen_le)
  | resign => exact h.signInput

end State.SameInput

/-- Settles O45: no read of a command reaches `ILEN`, so each does the same to both states. -/
theorem bytesBeyondIlenAreIrrelevant : Obligations.BytesBeyondIlenAreIrrelevant := by
  intro s m h i
  have hsame : s.SameInput m := h
  refine ⟨_, exec_eq i s, (exec_eq i (s.withInput m)).trans ?_⟩
  rw [hsame.effect, hsame.readsHeld, State.endReads_withInput]
  rfl

/-! ## `STATUS` and the reset values -/

/-- U7: `ST` never holds the code 3. -/
theorem Status.code_ne_three (st : Status) : st.code ≠ 3#2 := by
  cases st <;> decide

/-- R27: `STATUS` as it is read, `ST` in bits 1:0, `TV` in bit 2, zero in bits 7:3. -/
theorem Block.statusByte_fields (b : Block) :
    b.statusByte.extractLsb' 0 2 = b.st.code ∧ b.statusByte.getLsbD 2 = b.tv ∧
      b.statusByte.extractLsb' 3 5 = 0#5 := by
  rw [Block.statusByte]
  generalize b.tv = tv, b.st.code = code
  revert tv code
  decide

/-- Settles O6, field by field. -/
theorem statusFieldsOfTheReadByte : Obligations.StatusFieldsOfTheReadByte := by
  refine ⟨rfl, rfl, rfl, fun b => ?_⟩
  obtain ⟨hst, htv, hzero⟩ := b.statusByte_fields
  exact ⟨hst, htv, hzero, hst ▸ b.st.code_ne_three⟩

/-- Settles O41: the classification phase writes both fields, and nothing after it does. -/
theorem trailerValidAgreesWithStatus : Obligations.TrailerValidAgreesWithStatus := by
  intro s i hi
  refine ⟨_, exec_eq i s, ?_⟩
  rw [State.respondOk_block, State.endReads_block]
  rcases hi with rfl | hi
  · exact s.classifyInput_tv_iff
  · obtain ⟨htv, hst, -⟩ := effect_image_registers s hi
    rw [htv, hst]
    exact s.classifyInput_tv_iff

/-- Settles O48: the values of the definition. -/
theorem resetValues : Obligations.ResetValues :=
  ⟨by decide, rfl, rfl, rfl, rfl, rfl, rfl, rfl, rfl⟩

end Sys2Proof.Machine

/-! SUPPORT. The statements of spec/20_memory.md: the five host transactions (R58 to R62). Serving a
transaction has one rule per case of its operand; the statements are those rules read at a step. -/

namespace Sys2Proof.Machine

/-- R7, R8: a step serves the oldest event, on the state that still has the others to serve. -/
theorem step_setScript_cons (s : State) (e : HostEvent) (rest : List HostEvent) :
    step (s.setScript (e :: rest)) = serve e (s.setScript rest) :=
  step_of_script_cons (State.setScript_script s _)

/-! ## `RDR` (R58) -/

/-- R58: `STATUS` as a number, `TV` above the two bits of `ST`. -/
theorem Block.statusByte_eq_ofNat (b : Block) :
    b.statusByte = BitVec.ofNat 8 (b.tv.toNat * 4 + b.st.code.toNat) := by
  rw [Block.statusByte]
  generalize b.tv = tv, b.st.code = code
  revert tv code
  decide

theorem serve_rdr_status (s : State) :
    serve (.rdr 1) s =
      .next (s.respond (.okByte (BitVec.ofNat 8 (s.block.tv.toNat * 4 + s.block.st.code.toNat)))) := by
  rw [← Block.statusByte_eq_ofNat]
  rfl

/-- R25, R58: no register is read at a number from 8. -/
theorem serve_rdr_absent (s : State) {k : Nat} (hk : 8 ≤ k) :
    serve (.rdr k) s = .next (s.respondErr .address) := by
  obtain ⟨j, rfl⟩ := Nat.exists_eq_add_of_le' hk
  rfl

/-- Settles O5, register by register. -/
theorem registerReadResponds : Obligations.RegisterReadResponds := by
  intro s rest k
  rw [step_setScript_cons]
  match k with
  | 0 | 2 | 3 | 4 | 5 | 6 | 7 => rfl
  | 1 => exact serve_rdr_status _
  | k + 8 =>
    have hk : 8 ≤ k + 8 := Nat.le_add_left 8 k
    rw [if_pos hk]
    exact serve_rdr_absent _ hk

/-! ## `WRR` (R59) -/

/-- R59: a write of `CMD` issues a command. -/
theorem serve_wrr_command (s : State) (op : Byte) : serve (.wrr 0 op) s = s.issue op := rfl

/-- R80: a defined opcode runs its command. -/
theorem serve_wrr_command_of_ok (s : State) {op : Byte} {i : Instr} (h : decode op = .ok i) :
    serve (.wrr 0 op) s = exec i s := by
  rw [serve_wrr_command, State.issue, h]

/-- R82: a reserved opcode is answered by its error alone. -/
theorem serve_wrr_command_of_error (s : State) {op : Byte} {e : DecodeError}
    (h : decode op = .error e) : serve (.wrr 0 op) s = .next (s.respondErr .illegalCmd) := by
  obtain rfl := decode_error_eq h
  rw [serve_wrr_command, State.issue, h]

/-- R25, R59: no register is written at a number from 8. -/
theorem serve_wrr_absent (s : State) {k : Nat} (hk : 8 ≤ k) (v : BitVec (regWidth k)) :
    serve (.wrr k v) s = .next (s.respondErr .address) := by
  obtain ⟨j, rfl⟩ := Nat.exists_eq_add_of_le' hk
  rfl

/-- R59: the registers a host may only read. -/
theorem serve_wrr_readOnly (s : State) {k : Nat} (hk : k = 1 ∨ k = 3 ∨ k = 5 ∨ k = 6 ∨ k = 7)
    (v : BitVec (regWidth k)) : serve (.wrr k v) s = .next (s.respondErr .access) := by
  rcases hk with rfl | rfl | rfl | rfl | rfl <;> rfl

/-- Settles O7: `ILEN` and `HIN` by definition of their write, the other numbers by their rules. -/
theorem registerWriteResponds : Obligations.RegisterWriteResponds := by
  intro s rest
  simp only [step_setScript_cons]
  refine ⟨fun k v hk => serve_wrr_absent _ hk v, fun op => ?_, fun v => rfl, fun v => rfl,
    fun k v hk => serve_wrr_readOnly _ hk v⟩
  cases h : decode op with
  | ok i => exact serve_wrr_command_of_ok _ h
  | error e => exact serve_wrr_command_of_error _ h

/-! ## `WRI` (R60) -/

theorem serve_wri_of_le (s : State) {a : Nat} (ha : s.cap.val ≤ a) (v : Byte) :
    serve (.wri a v) s = .next (s.respondErr .address) := by
  rw [serve, State.writeInput, if_pos ha]

theorem serve_wri_of_lt (s : State) {a : Nat} (ha : a < s.cap.val) (v : Byte) :
    serve (.wri a v) s =
      .next (s.setBlock (s.block.setIbuf (s.block.ibuf.write a v))).respondOk := by
  rw [serve, State.writeInput, if_neg (Nat.not_le.mpr ha)]

/-- Settles O8: the buffer after it is `Memory.write`, whose reads are known. -/
theorem inputByteWriteStoresOneByte : Obligations.InputByteWriteStoresOneByte := by
  intro s rest a v
  rw [step_setScript_cons]
  exact ⟨fun ha => serve_wri_of_le (s.setScript rest) ha v, fun ha =>
    ⟨s.block.ibuf.write a v, serve_wri_of_lt (s.setScript rest) ha v,
      Memory.read?_write_same _ a v, fun _ hx => Memory.read?_write_other _ v hx⟩⟩

/-! ## `RDI` (R61) -/

theorem serve_rdi_of_le (s : State) {a : Nat} (ha : s.block.ilen.toNat ≤ a) :
    serve (.rdi a) s = .next (s.respondErr .address) := by
  rw [serve, State.readInput, if_pos ha]

theorem serve_rdi_of_held (s : State) {a : Nat} {v : Byte} (ha : a < s.block.ilen.toNat)
    (hv : s.block.ibuf.read? a = some v) : serve (.rdi a) s = .next (s.respond (.okByte v)) := by
  rw [serve, State.readInput, if_neg (Nat.not_le.mpr ha), State.inputByte, hv]
  rfl

/-- U1: a byte that holds no value is answered with a free one, and the next one is drawn anew. -/
theorem serve_rdi_of_unwritten (s : State) {a : Nat} (ha : a < s.block.ilen.toNat)
    (hv : s.block.ibuf.read? a = none) :
    serve (.rdi a) s = .next ((s.setDraws (s.draws + 1)).respond
      (.okByte (Config.freeByte s.draws .hostInput a))) := by
  rw [serve, State.readInput, if_neg (Nat.not_le.mpr ha), State.inputByte, hv]
  rfl

/-- Settles O9: an address out of the buffer, a byte that holds a value, a byte that holds none. -/
theorem inputByteReadResponds : Obligations.InputByteReadResponds := by
  intro s rest a
  rw [step_setScript_cons]
  exact ⟨fun ha => serve_rdi_of_le _ ha, fun ha =>
    ⟨fun _ hv => serve_rdi_of_held (s.setScript rest) ha hv,
      fun hv => ⟨_, serve_rdi_of_unwritten (s.setScript rest) ha hv⟩⟩⟩

/-! ## `RDO` (R62) -/

theorem serve_rdo_of_le (s : State) {a : Nat} (ha : s.block.olen.toNat ≤ a) :
    serve (.rdo a) s = .next (s.respondErr .address) := by
  rw [serve, State.readOutput, if_pos ha]

theorem serve_rdo_of_held (s : State) {a : Nat} {v : Byte} (ha : a < s.block.olen.toNat)
    (hv : s.block.obuf.read? a = some v) : serve (.rdo a) s = .next (s.respond (.okByte v)) := by
  rw [serve, State.readOutput, if_neg (Nat.not_le.mpr ha), State.outputByte, hv]
  rfl

/-- Settles O10: an address out of the image, or a byte of it. -/
theorem outputByteReadResponds : Obligations.OutputByteReadResponds := by
  intro s rest a
  rw [step_setScript_cons]
  exact ⟨fun ha => serve_rdo_of_le _ ha,
    fun ha _ hv => serve_rdo_of_held (s.setScript rest) ha hv⟩

end Sys2Proof.Machine

/-! SUPPORT. The statements of spec/30_encoding.md: the opcode map (R81, R82), the command issue (R80), and
the pseudo-operations LOAD and DUMP (R91). -/

namespace Sys2Proof.Machine

/-! ## The opcode map -/

/-- R81: each row of the opcode map matches all eight bits, against its command's word. -/
theorem mask_pattern_of_mem_opcodeTable {row : OpcodeRow} (h : row ∈ opcodeTable) :
    row.mask = BitVec.allOnes 8 ∧ row.pattern = encode row.instr := by
  revert row
  decide

/-- R81: the one word that decodes to a command is that command's word. -/
theorem encode_of_decode_eq_ok {op : Byte} {i : Instr} (h : decode op = .ok i) : encode i = op := by
  unfold decode at h
  split at h
  next row hrow =>
    obtain rfl := Except.ok.inj h
    obtain ⟨hmask, hpattern⟩ := mask_pattern_of_mem_opcodeTable (List.mem_of_find?_eq_some hrow)
    have haccepts : op &&& row.mask = row.pattern := by
      simpa [OpcodeRow.accepts] using List.find?_some hrow
    rw [← hpattern, ← haccepts, hmask, BitVec.and_allOnes]
  next => cases h

/-- R81: the laws of the seven commands as one. -/
theorem encodeDecode_statement (i : Instr) : Laws.EncodeDecode.Statement i := by
  cases i
  case hash => exact Laws.EncodeDecode.hash
  case encode => exact Laws.EncodeDecode.encode
  case tryDecode => exact Laws.EncodeDecode.tryDecode
  case classify => exact Laws.EncodeDecode.classify
  case add => exact Laws.EncodeDecode.add
  case remove => exact Laws.EncodeDecode.remove
  case resign => exact Laws.EncodeDecode.resign

theorem decode_encode (i : Instr) : decode (encode i) = .ok i := by
  obtain ⟨-, -, h⟩ := encodeDecode_statement i
  exact h

/-- Settles O1: `encode` and `decode` are inverse on the defined words. -/
theorem opcodeMapMatchesAllBits : Obligations.OpcodeMapMatchesAllBits :=
  ⟨⟨decode_encode .hash, decode_encode .encode, decode_encode .tryDecode, decode_encode .classify,
      decode_encode .add, decode_encode .remove, decode_encode .resign⟩,
    fun _ i => ⟨encode_of_decode_eq_ok, fun h => h ▸ decode_encode i⟩⟩

/-! ## The command issue -/

/-- Settles O2: a reserved opcode is the one kind `decode` rejects, and a rejected one only responds. -/
theorem reservedOpcodesHaveNoEffect : Obligations.ReservedOpcodesHaveNoEffect := by
  intro op hop
  have hdecode := (decode_error_iff op).mpr hop
  exact ⟨hdecode, fun s rest => (step_setScript_cons s _ rest).trans
    (serve_wrr_command_of_error _ hdecode)⟩

/-- R184: a command completes, with the one response `OK`. -/
theorem exec_responds_ok (i : Instr) (s : State) :
    ∃ t, exec i s = .next t ∧ t.responses = s.responses ++ [.ok] := by
  obtain ⟨-, -, hresponses, -⟩ := exec_environment (exec_eq i s)
  exact ⟨_, exec_eq i s, hresponses⟩

/-- Settles O3: the step serves `WRR 0, op`, whose two cases are known. -/
theorem commandIssueRunsDecodedCommand : Obligations.CommandIssueRunsDecodedCommand := by
  intro s rest op
  rw [step_setScript_cons]
  exact ⟨fun i hi => ⟨serve_wrr_command_of_ok _ hi, exec_responds_ok i (s.setScript rest)⟩,
    fun _ he => serve_wrr_command_of_error _ he⟩

/-! ## Runs of a script, whatever follows it -/

/-- A run replaces the script of its starting state, so what the first event answers counts up to its
script. -/
theorem runScript_of_serve {e : HostEvent} {es : List HostEvent} {s t : State}
    (h : serve e (s.setScript es) = .next (t.setScript es)) :
    runScript (e :: es) s = runScript es t := by
  rw [runScript_cons h]
  rfl

/-! ## `LOAD` (R91) -/

/-- The state after `WRI` of the bytes of `p` from address `a` on, each answered `OK` (R60). -/
def State.storeInput (s : State) (a : Nat) (p : List Byte) : State :=
  (s.setBlock (s.block.setIbuf (s.block.ibuf.writeBytes a p))).setResponses
    (s.responses ++ List.replicate p.length .ok)

theorem State.storeInput_nil (s : State) (a : Nat) : s.storeInput a [] = s := by
  simp [State.storeInput]

theorem State.storeInput_cons (s : State) (a : Nat) (v : Byte) (p : List Byte) :
    s.storeInput a (v :: p) = (s.storeInput a [v]).storeInput (a + 1) p := by
  rw [State.storeInput, Memory.writeBytes_cons, List.length_cons, List.replicate_succ,
    List.append_cons]
  rfl

theorem runScript_writeInput {s : State} {a : Nat} {p : List Byte} (es : List HostEvent)
    (h : a + p.length ≤ s.cap.val) :
    runScript (Script.writeInput a p ++ es) s = runScript es (s.storeInput a p) := by
  induction p generalizing s a with
  | nil => rw [State.storeInput_nil]; rfl
  | cons v p ih =>
    rw [List.length_cons] at h
    have ha : a < s.cap.val := by omega
    have hfirst : runScript (Script.writeInput a (v :: p) ++ es) s =
        runScript (Script.writeInput (a + 1) p ++ es) (s.storeInput a [v]) :=
      runScript_of_serve (serve_wri_of_lt (s.setScript (Script.writeInput (a + 1) p ++ es)) ha v)
    have hrest : a + 1 + p.length ≤ s.cap.val := by omega
    rw [hfirst, ih (s := s.storeInput a [v]) hrest, ← State.storeInput_cons]

/-- R28, R59: a length the buffer can hold is taken. -/
theorem serve_wrr_length_of_le (s : State) {v : Word} (hv : v.toNat ≤ s.cap.val) :
    serve (.wrr 2 v) s = .next (s.setBlock (s.block.setIlen v)).respondOk := by
  show Host.Outcome.next (s.writeLength v) = _
  rw [State.writeLength, if_neg (Nat.not_lt.mpr hv)]

/-- The state after `LOAD p` (R91). -/
def State.loadInput (s : State) (p : List Byte) : State :=
  ((s.storeInput 0 p).setBlock
    ((s.storeInput 0 p).block.setIlen (BitVec.ofNat 64 p.length))).respondOk

@[simp] theorem State.loadInput_block (s : State) (p : List Byte) :
    (s.loadInput p).block = (s.block.setIbuf (s.block.ibuf.writeBytes 0 p)).setIlen
      (BitVec.ofNat 64 p.length) := rfl

@[simp] theorem State.loadInput_cap (s : State) (p : List Byte) : (s.loadInput p).cap = s.cap := rfl

@[simp] theorem State.loadInput_responses (s : State) (p : List Byte) :
    (s.loadInput p).responses = s.responses ++ List.replicate (p.length + 1) .ok := by
  rw [List.replicate_succ', ← List.append_assoc]
  rfl

/-- R10: a length up to `CAP` is a 64-bit number. -/
theorem toNat_ofNat_of_le_cap {n : Nat} {c : Config.Capacity} (h : n ≤ c.val) :
    (BitVec.ofNat 64 n).toNat = n := by
  rw [BitVec.toNat_ofNat, Nat.mod_eq_of_lt (by omega)]

/-- R91: `LOAD p` before any other events, for a `p` the buffer can hold. -/
theorem runScript_load {s : State} {p : List Byte} (es : List HostEvent)
    (h : p.length ≤ s.cap.val) :
    runScript (Script.load p ++ es) s = runScript es (s.loadInput p) := by
  have hlen : (BitVec.ofNat 64 p.length).toNat ≤ s.cap.val := by rwa [toNat_ofNat_of_le_cap h]
  rw [Script.load, List.append_assoc, runScript_writeInput _ (by omega)]
  exact runScript_of_serve (serve_wrr_length_of_le ((s.storeInput 0 p).setScript es) hlen)

theorem State.loadInput_inputIs {s : State} {p : List Byte} (h : p.length ≤ s.cap.val) :
    (s.loadInput p).InputIs p := by
  refine ⟨toNat_ofNat_of_le_cap h, fun a ha => ?_⟩
  show (s.block.ibuf.writeBytes 0 p).read? a = p[a]?
  rw [Memory.read?_writeBytes, if_pos (by omega), Nat.sub_zero]

/-- Settles O51: the bytes are written one by one, then `ILEN` (R91). -/
theorem loadFillsInputBuffer : Obligations.LoadFillsInputBuffer := by
  intro s p hp
  refine ⟨(s.loadInput p).setScript [], s.block.ibuf.writeBytes 0 p, ?_,
    State.loadInput_inputIs hp, rfl, fun a ha => ?_, State.loadInput_responses s p⟩
  · have hrun := runScript_load [] hp
    rwa [List.append_nil] at hrun
  · rw [Memory.read?_writeBytes, if_neg (by omega)]

/-! ## `DUMP` (R91) -/

/-- In every state with this block, the event only records the response `r`. -/
def Block.Answers (b : Block) (e : HostEvent) (r : Response) : Prop :=
  ∀ s : State, s.block = b → serve e s = .next (s.respond r)

/-- Events that only record their responses are answered one after the other. -/
theorem runScript_of_answers {b : Block} {es : List HostEvent} {rs : List Response}
    (h : List.Forall₂ b.Answers es rs) (rest : List HostEvent) {s : State} (hs : s.block = b) :
    runScript (es ++ rest) s = runScript rest (s.setResponses (s.responses ++ rs)) := by
  induction h generalizing s with
  | nil => rw [List.append_nil]; rfl
  | @cons e r es rs he _ ih =>
    have hfirst : runScript (e :: (es ++ rest)) s = runScript (es ++ rest) (s.respond r) :=
      runScript_of_serve (he (s.setScript (es ++ rest)) hs)
    rw [List.cons_append, hfirst, ih (s := s.respond r) hs, List.append_cons]
    rfl

/-- R58, R62: register 3 gives the length of the image, and each `RDO` below it a byte of the image. -/
theorem State.ImageIs.dump_answers {s : State} {b : List Byte} (h : s.ImageIs b) :
    List.Forall₂ s.block.Answers (Script.dump b.length)
      (.okWord (BitVec.ofNat 64 b.length) :: b.map .okByte) := by
  obtain ⟨hlen, hbytes⟩ := h
  have holen : s.block.olen = BitVec.ofNat 64 b.length := by
    rw [← hlen, BitVec.ofNat_toNat, BitVec.setWidth_eq]
  have hbyte : ∀ a (ha : a < b.length), s.block.Answers (.rdo a) (.okByte b[a]) := fun a ha t ht =>
    serve_rdo_of_held t (by rwa [ht, hlen]) (by rw [ht, hbytes a ha, List.getElem?_eq_getElem ha])
  refine .cons (fun t ht => ?_) ?_
  · rw [← holen, ← ht]
    rfl
  · rw [List.forall₂_map_left_iff, List.forall₂_map_right_iff, List.forall₂_iff_get]
    refine ⟨List.length_range, fun a _ ha => ?_⟩
    simpa using hbyte a ha

/-- R91: `DUMP` of the image `b` before any other events. -/
theorem runScript_dump {s : State} {b : List Byte} (h : s.ImageIs b) (rest : List HostEvent) :
    runScript (Script.dump b.length ++ rest) s = runScript rest
      (s.setResponses (s.responses ++ .okWord (BitVec.ofNat 64 b.length) :: b.map .okByte)) :=
  runScript_of_answers h.dump_answers rest rfl

/-- Settles O52: every transaction of `DUMP` is a read. -/
theorem dumpReturnsImage : Obligations.DumpReturnsImage := by
  intro s b h
  have hrun := runScript_dump h []
  rwa [List.append_nil] at hrun

end Sys2Proof.Machine

/-! SUPPORT. The statements of spec/40_hasher.md: the index mix (R105), the hasher's small steps (R114 to
R117), the command HASH (R100, R110), and what the hash does and does not tell apart (R111 to R113). -/

namespace Sys2Proof.Machine

/-! ## The index mix (R105) -/

theorem mix_toNat (i : Word) : (mix i).toNat = i.toNat * 1024 % 2 ^ 64 :=
  BitVec.toNat_mul i Config.indexScale

theorem mix_eq_shiftLeft (i : Word) : mix i = i <<< 10 :=
  BitVec.mul_twoPow_eq_shiftLeft i 10

/-- R105: the low 10 bits of `mix(i)` are 0, because `2^10` divides both the product and `2^64`. -/
theorem mix_extractLsb'_low (i : Word) : (mix i).extractLsb' 0 10 = 0#10 := by
  apply BitVec.eq_of_toNat_eq
  rw [BitVec.extractLsb'_toNat, mix_toNat, BitVec.toNat_ofNat, Nat.shiftRight_zero]
  omega

theorem contribution_extractLsb'_low (v i : Word) :
    (contribution v i).extractLsb' 0 10 = v.extractLsb' 0 10 := by
  rw [contribution, BitVec.extractLsb'_xor, mix_extractLsb'_low, BitVec.xor_zero]

/-- Settles O29: multiplying by `1024 = 2^10` is the shift, and the product is reduced modulo `2^64`. -/
theorem indexMixShiftsByTen : Obligations.IndexMixShiftsByTen := by
  refine ⟨fun i => ⟨mix_toNat i, mix_eq_shiftLeft i, mix_extractLsb'_low i, fun h => by omega⟩,
    fun v i => ⟨rfl, contribution_extractLsb'_low v i⟩, ?_, ?_, ?_⟩
  all_goals decide

/-- R105, R111: the index mix vanishes exactly at the multiples of `2^54`. -/
theorem mix_ofNat_eq_zero_iff (m : Nat) : mix (BitVec.ofNat 64 m) = 0#64 ↔ 2 ^ 54 ∣ m := by
  rw [← BitVec.toNat_inj, mix_toNat, BitVec.toNat_ofNat, BitVec.toNat_ofNat]
  omega

/-! ## The hasher's small steps (R114 to R117) -/

theorem nblocks_le (n : Nat) : nblocks n ≤ n := by
  rw [nblocks, Config.blockBytes]
  omega

/-- R117: what `k` ABSORB steps after INIT leave, for every `k` that `IDX` can hold. -/
theorem iterate_absorb_init (s : State) (n : Nat) {k : Nat} (hk : k ≤ 2 ^ 64) :
    (s.absorb n)^[k] s.block.hasher.init =
      absorbed (s.inputBytes .block n) s.block.hasher k := by
  induction k with
  | zero => rfl
  | succ k ih =>
    rw [Function.iterate_succ_apply', ih (by omega), absorb_absorbed s n k _ (by omega)]

/-- R115, R116: ABSORB is enabled exactly while a block is left. -/
theorem absorbing_iff {h : Hasher} {n k : Nat} (hidx : h.idx.toNat = k) :
    h.absorbing n = true ↔ k < nblocks n := by
  rw [Hasher.absorbing, hidx, decide_eq_true_iff, lt_nblocks]

/-- R117: a run is exactly its `ceil(n/8)` ABSORB steps, as its fuel never cuts it short. -/
theorem State.runHasher_eq_iterate (s : State) {n : Nat} (hn : n < 2 ^ 64) :
    s.runHasher n = (s.absorb n)^[nblocks n] s.block.hasher.init := by
  rw [iterate_absorb_init s n ((nblocks_le n).trans hn.le)]
  exact absorbAll_absorbed s n (nblocks n) 0 s.block.hasher hn (Nat.zero_add _)

/-- R101, R102: the blocks are those of the padded sequence. -/
theorem nblocks_mul_eight (n : Nat) : nblocks n * 8 = n + padlen n := by
  simp only [nblocks, padlen, Config.blockBytes]
  omega

/-- Settles O16: the registers after `k` steps are known, and the run goes on while a step is enabled. -/
theorem hasherRunIsCeilAbsorbSteps : Obligations.HasherRunIsCeilAbsorbSteps := by
  intro s n hn
  have hresult : (s.runHasher n).acc = blockHash (s.inputBytes .block n) := by
    rw [s.runHasher_eq hn, hasherAfter]
  refine ⟨fun k hk => ?_, s.runHasher_eq_iterate hn, hresult, nblocks_mul_eight n⟩
  have hk64 : k < 2 ^ 64 := (hk.trans (nblocks_le n)).trans_lt hn
  have hidx : ((s.absorb n)^[k] s.block.hasher.init).idx.toNat = k := by
    rw [iterate_absorb_init s n hk64.le, absorbed_idx, BitVec.toNat_ofNat, Nat.mod_eq_of_lt hk64]
  exact ⟨by rw [iterate_absorb_init s n hk64.le, absorbed_acc], hidx, absorbing_iff hidx⟩

/-! ## The command HASH (R100, R110) -/

/-- R110: the effect of HASH on a completely written buffer. -/
theorem State.InputIs.exec_hash {s : State} {b : List Byte} (h : s.InputIs b) :
    exec .hash s = .next (s.setBlock
      ((s.block.setHasher (hasherAfter b s.block.hasher)).setHash (blockHash b))).respondOk := by
  have hbytes : s.inputBytes .block s.block.ilen.toNat = b := by
    rw [h.1, h.inputBytes .block le_rfl, List.take_length]
  have hheld : s.readsHeld .hash = true := h.inputComplete
  rw [exec_eq, hheld, State.endReads_true, State.effect, State.hashPrefix_eq s s.block.ilen.isLt,
    hbytes]

/-- Settles O15: the hidden registers are those of a run over `b`. -/
theorem hashWritesHashOfBuffer : Obligations.HashWritesHashOfBuffer := fun s b h =>
  ⟨hasherAfter b s.block.hasher, h.exec_hash⟩

/-- Settles O31: HASH holds `hash(b)` after the command, in whichever state it was issued. -/
theorem hashDependsOnBufferAlone : Obligations.HashDependsOnBufferAlone := fun _ _ _ h h' =>
  ⟨_, _, h.exec_hash, h'.exec_hash, rfl, rfl⟩

/-! ## Padding (R111) -/

/-- R101: a sequence reads as 0 beyond its end, as it does with zeros appended. -/
theorem getD_append_zeros (b : List Byte) (k a : Nat) :
    (b ++ List.replicate k 0#8).getD a 0#8 = b.getD a 0#8 := by
  rcases Nat.lt_or_ge a b.length with ha | ha
  · rw [List.getD_append _ _ _ _ ha]
  · rw [List.getD_append_right _ _ _ _ ha, List.getD_eq_default _ _ ha, List.getD_eq_getElem?_getD,
      List.getElem?_getD_replicate_default_eq]

/-- R101, R102: zeros appended within the last block start no new block. -/
theorem nblocks_add_of_le_padlen {n k : Nat} (hk : k ≤ padlen n) : nblocks (n + k) = nblocks n := by
  simp only [nblocks, padlen, Config.blockBytes] at hk ⊢
  omega

theorem blockHash_append_zeros {b : List Byte} {k : Nat} (hk : k ≤ padlen b.length) :
    blockHash (b ++ List.replicate k 0#8) = blockHash b := by
  rw [blockHash, blockHash, List.length_append, List.length_replicate, nblocks_add_of_le_padlen hk]
  exact partialHash_congr fun _ _ => blockValueOf_congr fun _ _ => getD_append_zeros b k _

theorem length_pad (b : List Byte) : (pad b).length = nblocks b.length * 8 := by
  rw [pad, List.length_append, List.length_replicate, nblocks_mul_eight]

/-- R111 (c): a whole zero block contributes its index mix. -/
theorem blockHash_append_zero_block {b : List Byte} {m : Nat} (hb : b.length = 8 * m) :
    blockHash (b ++ List.replicate 8 0#8) = blockHash b + mix (BitVec.ofNat 64 m) := by
  have hzero : le64 (List.replicate 8 0#8) = 0#64 := rfl
  rw [blockHash_append_block hb List.length_replicate, hzero, contribution, BitVec.zero_xor]

/-- Settles O30: padding leaves the blocks as they are, and a whole zero block adds `mix(m)`. -/
theorem hashIgnoresPaddingZeros : Obligations.HashIgnoresPaddingZeros := by
  refine ⟨fun _ _ hk => blockHash_append_zeros hk,
    fun b => ⟨blockHash_append_zeros le_rfl, by rw [length_pad, Nat.mul_mod_left]⟩,
    fun b m hb => ⟨blockHash_append_zero_block hb, ?_⟩⟩
  rw [blockHash_append_zero_block hb, BitVec.add_right_eq_self, mix_ofNat_eq_zero_iff]

/-! ## Single-byte sensitivity (R112) -/

/-- R102, R104: the value of a block determines its bytes. -/
theorem getD_eq_of_blockValueOf_eq {b c : List Byte} {i j : Nat} (hj : j < 8)
    (h : blockValueOf b i = blockValueOf c i) :
    b.getD (8 * i + j) 0#8 = c.getD (8 * i + j) 0#8 := by
  have hlen : ∀ d, (blockOf d i).length = 8 := fun d => by simp [blockOf]
  exact List.map_inj_left.mp (le64_injective (hlen b) (hlen c) h) j (List.mem_range.mpr hj)

/-- R112: if one block's value differs and no other, the partial hashes beyond it differ. -/
theorem partialHash_ne_of_block {b c : List Byte} {i k : Nat} (hik : i < k)
    (hne : blockValueOf b i ≠ blockValueOf c i)
    (hsame : ∀ j, j ≠ i → blockValueOf b j = blockValueOf c j) :
    partialHash b k ≠ partialHash c k := by
  induction k with
  | zero => omega
  | succ k ih =>
    rw [partialHash_succ b, partialHash_succ c]
    rcases Nat.lt_succ_iff_lt_or_eq.mp hik with hlt | rfl
    · rw [hsame k (by omega), Ne, BitVec.add_left_inj]
      exact ih hlt
    · rw [partialHash_congr fun j hj => hsame j (by omega), Ne, BitVec.add_right_inj]
      exact fun h => hne (contribution_injective h)

/-- R112: two sequences of one length that differ at one position only have different hashes. -/
theorem blockHash_ne_of_byte {b c : List Byte} {i : Nat} (hlen : b.length = c.length)
    (hi : i < b.length) (hne : b.getD i 0#8 ≠ c.getD i 0#8)
    (hsame : ∀ a, a ≠ i → b.getD a 0#8 = c.getD a 0#8) : blockHash b ≠ blockHash c := by
  rw [blockHash, blockHash, ← hlen]
  refine partialHash_ne_of_block (lt_nblocks.mpr (show 8 * (i / 8) < b.length by omega))
    (fun h => ?_) fun j hj => blockValueOf_congr fun a ha => hsame _ (by omega)
  have hbyte := getD_eq_of_blockValueOf_eq (Nat.mod_lt i (by decide : 8 > 0)) h
  rw [Nat.div_add_mod] at hbyte
  exact hne hbyte

/-- Settles O32: `set` changes the sequence at one position only. -/
theorem oneByteChangesHash : Obligations.OneByteChangesHash := by
  intro b i v hi hv
  refine blockHash_ne_of_byte (List.length_set ..) (by rwa [List.length_set]) ?_ fun a ha => ?_
  · rw [List.getElem?_eq_getElem hi] at hv
    rw [List.getD_eq_getElem _ _ hi, List.getD_eq_getElem _ _ (by rwa [List.length_set]),
      List.getElem_set_self]
    exact fun h => hv (congrArg some h.symm)
  · rw [List.getD_eq_getElem?_getD, List.getD_eq_getElem?_getD, List.getElem?_set_ne (Ne.symm ha)]

/-! ## Collisions (R113) -/

/-- R113: a sequence of 8 bytes hashes to its own value, as `mix(0) = 0`. -/
theorem blockHash_leBytes64 (v : Word) : blockHash (leBytes64 v) = v := by
  have h := blockHash_append_block (b := []) (m := 0) rfl (leBytes64_length v)
  rw [List.nil_append, le64_leBytes64] at h
  rw [h, contribution, show mix (BitVec.ofNat 64 0) = 0#64 from rfl, BitVec.xor_zero]
  exact BitVec.zero_add v

/-- R113 (a): a block equal to its own index mix contributes 0. -/
theorem blockHash_append_own_mix {b : List Byte} {m : Nat} (hb : b.length = 8 * m) :
    blockHash (b ++ leBytes64 (mix (BitVec.ofNat 64 m))) = blockHash b := by
  rw [blockHash_append_block hb (leBytes64_length _), le64_leBytes64, contribution, BitVec.xor_self,
    BitVec.add_zero]

/-- Settles O33: the two general facts, and the examples evaluated. -/
theorem hashIsNotInjective : Obligations.HashIsNotInjective := by
  refine ⟨blockHash_leBytes64, fun _ _ hb => blockHash_append_own_mix hb, ?_, ?_, ?_, ?_⟩
  all_goals decide

end Sys2Proof.Machine

/-! SUPPORT. The statements of spec/41_trailer_codec.md: the boundary and the flag gate of the decode
(R124, R127), the round trip of the codec (R126), and the commands ENCODE and TRYDECODE (R122, R125). -/

namespace Sys2Proof.Machine

/-! ## Boundary and flag gate of the decode (R124, R127) -/

theorem trailerShaped_iff (b : List Byte) :
    trailerShaped b = true ↔ 9 ≤ b.length ∧ b.getLast? = some 0xFF#8 := by
  rw [trailerShaped, Bool.and_eq_true, decide_eq_true_iff, beq_iff_eq]
  refine and_congr_right fun (h9 : 9 ≤ b.length) => ?_
  have hlast : b.length - 1 < b.length := by omega
  rw [List.getLast?_eq_getElem?, List.getElem?_eq_getElem hlast, List.getD_eq_getElem _ _ hlast,
    Option.some_inj]

theorem tryDecode_eq_none_of_not {b : List Byte}
    (h : ¬ (9 ≤ b.length ∧ b.getLast? = some 0xFF#8)) : tryDecode b = none :=
  (tryDecode_none_iff b).mpr (Bool.eq_false_of_not_eq_true (mt (trailerShaped_iff b).mp h))

/-- Settles O35: the length test and the flag test decide, whatever the other bytes. -/
theorem decodeBoundaryAndFlagGate : Obligations.DecodeBoundaryAndFlagGate := by
  refine ⟨fun b h8 => ?_, fun b v _ hv hne => ?_, fun b h9 hflag => ?_⟩
  · exact tryDecode_eq_none_of_not fun ⟨h9, _⟩ => by omega
  · exact tryDecode_eq_none_of_not fun ⟨_, hflag⟩ => hne (Option.some_inj.mp (hv.symm.trans hflag))
  · exact ⟨_, tryDecode_of_trailerShaped ((trailerShaped_iff b).mpr ⟨h9, hflag⟩)⟩

/-! ## Codec round trip (R126) -/

theorem trailerShaped_append_trailer (p : List Byte) (h : Word) :
    trailerShaped (p ++ trailer h) = true := by
  refine (trailerShaped_iff _).mpr ⟨?_, ?_⟩
  · rw [List.length_append, trailer_length]
    omega
  · rw [trailer, ← List.append_assoc, List.getLast?_concat]

/-- R121, R124: the hash field the decode reads is the one the encoder wrote. -/
theorem slice_append_trailer (p : List Byte) (h : Word) :
    slice (p ++ trailer h) p.length (p.length + 8) = leBytes64 h := by
  rw [slice, List.drop_left, Nat.add_sub_cancel_left, trailer,
    List.take_left' (leBytes64_length h)]

/-- Settles O34: the image is trailer-shaped, and its hash field is read back. -/
theorem trailerRoundTrip : Obligations.TrailerRoundTrip := by
  intro p h
  rw [tryDecode_of_trailerShaped (trailerShaped_append_trailer p h), List.length_append,
    trailer_length, Nat.add_sub_cancel, show p.length + 9 - 1 = p.length + 8 from rfl,
    slice_append_trailer, le64_leBytes64]

/-! ## The command ENCODE (R122) -/

/-- R121: the bytes of `encode(h)`. -/
theorem trailer_getElem? (h : Word) {j : Nat} (hj : j < 8) :
    (trailer h)[j]? = some (leByte h j) := by
  rw [trailer, List.getElem?_append_left (by rwa [leBytes64_length]), leBytes64_getElem? h hj]

theorem trailer_getElem?_flag (h : Word) : (trailer h)[8]? = some 0xFF#8 := by
  rw [trailer, List.getElem?_append_right (by rw [leBytes64_length]), leBytes64_length]
  rfl

/-- R33: within the image stored, `OBUF` holds its bytes. -/
theorem State.storeImage_read? (s : State) {p : List Byte} {a : Nat} (ha : a < p.length) :
    (s.storeImage p).block.obuf.read? a = p[a]? := by
  rw [State.storeImage_obuf, Memory.read?_writeBytes, if_pos (by omega), Nat.sub_zero]

/-- Settles O17: the image of ENCODE is the trailer of `HIN`. -/
theorem encodeWritesTrailerOfHin : Obligations.EncodeWritesTrailerOfHin := by
  intro s
  have hread : ∀ j, j < 9 → (s.storeImage (trailer s.block.hin)).block.obuf.read? j =
      (trailer s.block.hin)[j]? :=
    fun j hj => s.storeImage_read? (by rwa [trailer_length])
  refine ⟨(s.storeImage (trailer s.block.hin)).block.obuf, ?_, fun j hj => ?_, ?_⟩
  · rw [exec_eq, State.effect_encode]
    rfl
  · rw [hread j (by omega), trailer_getElem? _ hj, leByte]
  · rw [hread 8 (by omega), trailer_getElem?_flag]

/-! ## The command TRYDECODE (R125) -/

/-- Settles O18: a completely written buffer decodes as the sequence it holds, and no read draws. -/
theorem tryDecodeLatchesTrailer : Obligations.TryDecodeLatchesTrailer := by
  intro s b h
  have hheld : s.readsHeld .tryDecode = true := h.inputComplete
  rw [exec_eq, hheld, State.endReads_true, State.effect, h.latchTrailer]
  cases tryDecode b <;> rfl

end Sys2Proof.Machine

/-! SUPPORT. The statements of spec/42_detector.md: the boundary and the flag gate of the classification
(R146), what the three statuses mean (R142), the reclassified payload (R145), signed and tampered files
(R147, R148), and the command CLASSIFY (R143). -/

namespace Sys2Proof.Machine

/-! ## Boundary and flag gate of the classification (R146) -/

/-- R141 step 1: what does not decode is `Unsigned`, and whole. -/
theorem classify_of_tryDecode_eq_none {b : List Byte} (h : tryDecode b = none) :
    classify b = (.unsigned, b) :=
  classify_of_not_trailerShaped ((tryDecode_none_iff b).mp h)

/-- Settles O36: the classification is gated as the decode is. -/
theorem classifyBoundaryAndFlagGate : Obligations.ClassifyBoundaryAndFlagGate := by
  obtain ⟨hshort, hflag, -⟩ := decodeBoundaryAndFlagGate
  exact ⟨fun b h8 => classify_of_tryDecode_eq_none (hshort b h8),
    classify_of_tryDecode_eq_none (hshort [] (Nat.zero_le 8)),
    fun b v h9 hv hne => classify_of_tryDecode_eq_none (hflag b v h9 hv hne)⟩

/-! ## The three statuses (R142) -/

theorem statusOf_ne_unsigned (e h : Word) : statusOf e h ≠ .unsigned := by
  rcases statusOf_eq_or e h with hst | hst <;> simp [hst]

theorem statusOf_eq_signed_iff (e h : Word) : statusOf e h = .signed ↔ e = h := by
  rw [statusOf]
  split <;> simp [*]

theorem statusOf_eq_changedData_iff (e h : Word) : statusOf e h = .changedData ↔ e ≠ h := by
  rw [statusOf]
  split <;> simp [*]

/-- R13, R108: comparing all 64 bits is comparing the 8 bytes. -/
theorem eq_le64_iff (v : Word) {s : List Byte} (hs : s.length = 8) :
    v = le64 s ↔ leBytes64 v = s :=
  ⟨fun h => by rw [h, leBytes64_le64 hs], fun h => by rw [← h, le64_leBytes64]⟩

theorem length_slice (b : List Byte) {i j : Nat} (hj : j ≤ b.length) :
    (slice b i j).length = j - i := by
  rw [slice, List.length_take, List.length_drop]
  omega

/-- Settles O37: the trailer shape tells `Unsigned` apart, and the 8 bytes before the flag byte the other
two. -/
theorem classificationMeaning : Obligations.ClassificationMeaning := by
  intro b
  cases hb : trailerShaped b with
  | false => simp [classify_of_not_trailerShaped hb]
  | true =>
    have h9 := length_of_trailerShaped hb
    have hfield : (slice b (b.length - 9) (b.length - 1)).length = 8 := by
      rw [length_slice b (by omega)]
      omega
    simp [classify_of_trailerShaped hb, statusOf_ne_unsigned, statusOf_eq_signed_iff,
      statusOf_eq_changedData_iff, eq_le64_iff _ hfield]

/-- Settles O38: the payload is classified as any sequence is, and one classification takes at most the
9 trailer bytes. -/
theorem reclassifyingPayload : Obligations.ReclassifyingPayload := by
  intro b
  obtain ⟨hunsigned, -⟩ := classificationMeaning (classify b).2
  refine ⟨hunsigned, fun h => by rw [classify_of_not_trailerShaped h], ?_⟩
  cases hb : trailerShaped b with
  | false => exact .inl (by rw [classify_of_not_trailerShaped hb])
  | true =>
    have h9 := length_of_trailerShaped hb
    right
    rw [classify_of_trailerShaped hb, List.length_take]
    omega

/-! ## Signed and tampered files (R147, R148) -/

/-- R141: the classification of a payload with a trailer behind it, whatever hash the trailer holds. -/
theorem classify_append_trailer (p : List Byte) (h : Word) :
    classify (p ++ trailer h) = (statusOf (blockHash p) h, p) := by
  rw [classify, trailerRoundTrip]
  simp only [List.take_left]

/-- Settles O40: the hash the trailer holds is the one the payload has. -/
theorem signThenClassify : Obligations.SignThenClassify := fun p => by
  rw [classify_append_trailer, (statusOf_eq_signed_iff _ _).mpr rfl]

theorem classify_append_trailer_of_ne {p : List Byte} {h : Word} (hne : blockHash p ≠ h) :
    classify (p ++ trailer h) = (.changedData, p) := by
  rw [classify_append_trailer, (statusOf_eq_changedData_iff _ _).mpr hne]

/-- R121: the trailer with another flag byte. -/
theorem trailer_set_flag (h : Word) (v : Byte) : (trailer h).set 8 v = leBytes64 h ++ [v] := by
  rw [trailer, List.set_append_right _ _ (leBytes64_length h).le, leBytes64_length]
  rfl

/-- R121: the trailer with another hash byte is the trailer of another hash. -/
theorem trailer_set_hash_byte (h : Word) {j : Nat} (hj : j < 8) (v : Byte) :
    (trailer h).set j v = trailer (le64 ((leBytes64 h).set j v)) := by
  rw [trailer, trailer, leBytes64_le64 (by rw [List.length_set, leBytes64_length]),
    List.set_append_left _ _ (by rwa [leBytes64_length])]

/-- R13: a word with one of its bytes changed is another word. -/
theorem ne_le64_set_byte {h : Word} {j : Nat} (hj : j < 8) {v : Byte} (hv : leByte h j ≠ v) :
    h ≠ le64 ((leBytes64 h).set j v) := by
  rw [Ne, eq_le64_iff h (by rw [List.length_set, leBytes64_length])]
  intro heq
  have hbyte := congrArg (·[j]?) heq
  simp only [leBytes64_getElem? h hj] at hbyte
  rw [List.getElem?_set_self (by rwa [leBytes64_length]), Option.some_inj] at hbyte
  exact hv hbyte

/-- R124: with another flag byte nothing is recognised. -/
theorem classify_append_of_flag_ne (p : List Byte) (h : Word) {v : Byte} (hv : v ≠ 0xFF#8) :
    classify (p ++ (leBytes64 h ++ [v])) = (.unsigned, p ++ (leBytes64 h ++ [v])) := by
  obtain ⟨-, -, hgate⟩ := classifyBoundaryAndFlagGate
  refine hgate _ v ?_ (by rw [← List.append_assoc, List.getLast?_concat]) hv
  simp only [List.length_append, leBytes64_length, List.length_singleton]
  omega

/-- Settles O39: a payload byte changes the hash computed (R112), a hash byte the hash recorded, the flag
byte the trailer shape; the undetected pair is the collision of R113. -/
theorem tamperDetection : Obligations.TamperDetection := by
  refine ⟨fun p i v hi hv => ?_, fun p v hv => ?_, fun p j v hj hv => ?_, ?_⟩
  · rw [List.set_append_left _ _ hi,
      classify_append_trailer_of_ne (oneByteChangesHash p i v hi hv)]
  · rw [List.set_append_right _ _ (by omega), Nat.add_sub_cancel_left, trailer_set_flag,
      classify_append_of_flag_ne p _ hv]
  · have hbyte : leByte (blockHash p) j ≠ v := fun h => hv (by rw [trailer_getElem? _ hj, h])
    rw [List.set_append_right _ _ (by omega), Nat.add_sub_cancel_left, trailer_set_hash_byte _ hj,
      classify_append_trailer_of_ne (ne_le64_set_byte hj hbyte)]
  · obtain ⟨-, -, -, -, hp, hq⟩ := hashIsNotInjective
    refine ⟨[0x01#8] ++ List.replicate 15 0#8,
      List.replicate 8 0#8 ++ [0x01#8] ++ List.replicate 7 0#8, rfl, by decide, ?_⟩
    rw [hp, ← hq, signThenClassify]

/-! ## The command CLASSIFY (R143) -/

/-- Settles O19: the hidden registers are those of a run over the payload; no read draws. -/
theorem classifyRecordsClassification : Obligations.ClassifyRecordsClassification := by
  intro s b h
  refine ⟨hasherAfter (classify b).2 s.block.hasher, ?_⟩
  have hheld : s.readsHeld .classify = true := h.inputComplete
  rw [exec_eq, hheld, State.endReads_true, State.effect, h.classifyInput, Block.afterClassify,
    classify]
  cases tryDecode b <;> rfl

end Sys2Proof.Machine

/-! SUPPORT. The statements of spec/43_signature_ops.md: the commands ADD, REMOVE and RESIGN (R160 to R167),
what ADD does on a signed input and on its two known limitations (R163, R170), replay (R171), and the round
trips through the commands (R168, R169). -/

namespace Sys2Proof.Machine

/-! ## What a command does to a completely written buffer, said once for the seven of them -/

/-- The block after a command on the input buffer `b`. -/
def Block.afterCommand (k : Block) (b : List Byte) : Instr → Block
  | .hash => { k with hash := blockHash b, hasher := hasherAfter b k.hasher }
  | .encode => { k with obuf := k.obuf.writeBytes 0 (trailer k.hin), olen := 9 }
  | .tryDecode =>
    match tryDecode b with
    | none => { k with tv := false }
    | some (h, n) => { k with tv := true, thash := h, plen := BitVec.ofNat 64 n }
  | .classify => k.afterClassify b
  | .add => k.afterSign b
  | .remove => k.afterStrip b
  | .resign => k.afterSign b

/-- The state after a command on the input buffer `b`, which responds `OK` (R184). -/
def State.afterCommand (s : State) (b : List Byte) (i : Instr) : State :=
  (s.setBlock (s.block.afterCommand b i)).respondOk

@[simp] theorem State.afterCommand_responses (s : State) (b : List Byte) (i : Instr) :
    (s.afterCommand b i).responses = s.responses ++ [.ok] := rfl

theorem State.InputIs.readsHeld {s : State} {b : List Byte} (h : s.InputIs b) (i : Instr) :
    s.readsHeld i = true := by
  cases i with
  | encode => rfl
  | _ => exact h.inputComplete

/-- R205: the effect of each command on a completely written buffer. -/
theorem State.InputIs.effect {s : State} {b : List Byte} (h : s.InputIs b) (i : Instr) :
    s.effect i = s.setBlock (s.block.afterCommand b i) := by
  cases i with
  | hash =>
    rw [State.effect, State.hashPrefix_eq s s.block.ilen.isLt, h.1, h.inputBytes .block le_rfl,
      List.take_length]
    rfl
  | encode => rfl
  | tryDecode => exact h.latchTrailer
  | classify => exact h.classifyInput
  | add => exact h.signInput
  | remove => exact h.stripInput
  | resign => exact h.signInput

theorem State.InputIs.exec_eq {s : State} {b : List Byte} (h : s.InputIs b) (i : Instr) :
    exec i s = .next (s.afterCommand b i) := by
  rw [Machine.exec_eq, h.readsHeld, State.endReads_true, h.effect]
  rfl

/-- R36: no command writes the input buffer. -/
theorem State.InputIs.of_exec {s t : State} {b : List Byte} {i : Instr} (h : s.InputIs b)
    (ht : exec i s = .next t) : t.InputIs b := by
  obtain ⟨-, -, -, -, hilen, hibuf⟩ := exec_environment ht
  rwa [State.InputIs, hilen, hibuf]

theorem State.InputIs.afterCommand {s : State} {b : List Byte} (h : s.InputIs b) (i : Instr) :
    (s.afterCommand b i).InputIs b :=
  h.of_exec (h.exec_eq i)

/-! ## The images of ADD, REMOVE and RESIGN (R162, R164, R166) -/

@[simp] theorem addOp_length (c : Status × List Byte) : (addOp c).length = c.2.length + 9 := by
  rw [addOp, List.length_append, trailer_length]

theorem Block.afterClassify_st (k : Block) (b : List Byte) :
    (k.afterClassify b).st = (classify b).1 := by
  rw [Block.afterClassify]
  cases hb : tryDecode b with
  | none => rw [classify_of_tryDecode_eq_none hb]
  | some c => rfl

/-- R33: an image written from address 0 is read back. -/
theorem Memory.read?_writeBytes_zero (m : Memory) {q : List Byte} {a : Nat} (ha : a < q.length) :
    (m.writeBytes 0 q).read? a = q[a]? := by
  rw [Memory.read?_writeBytes, if_pos (by omega), Nat.sub_zero]

theorem Block.afterSign_read? (k : Block) {b : List Byte} {a : Nat}
    (ha : a < (classify b).2.length + 9) :
    (k.afterSign b).obuf.read? a = (addOp (classify b))[a]? :=
  k.obuf.read?_writeBytes_zero (by rwa [addOp_length])

theorem Block.afterStrip_read? (k : Block) {b : List Byte} {a : Nat}
    (ha : a < (classify b).2.length) : (k.afterStrip b).obuf.read? a = (classify b).2[a]? :=
  k.obuf.read?_writeBytes_zero ha

/-- Settles O20: the image is the payload, the hash bytes and the flag byte in one. -/
theorem addWritesSignedImage : Obligations.AddWritesSignedImage := by
  refine fun s b h => ⟨(s.block.afterSign b).obuf, hasherAfter (classify b).2 s.block.hasher,
    h.exec_eq .add, fun a ha => ?_⟩
  rw [Block.afterSign_read? _ ha, addOp, trailer, List.append_assoc]

/-- Settles O21: the hidden registers are those of phase 1. -/
theorem removeWritesPayload : Obligations.RemoveWritesPayload := fun s b h =>
  ⟨(s.block.afterStrip b).obuf, (s.block.afterClassify b).hasher, h.exec_eq .remove,
    fun _ ha => Block.afterStrip_read? _ ha⟩

/-- Settles O22: what REMOVE would write is the payload, and RESIGN writes its signed image. -/
theorem resignWritesFreshTrailer : Obligations.ResignWritesFreshTrailer := fun s b h =>
  ⟨(s.block.afterSign b).obuf, hasherAfter (removeOp (classify b)) s.block.hasher,
    h.exec_eq .resign, fun _ ha => Block.afterSign_read? _ ha⟩

/-- Settles O23: both commands sign the input, and neither function reads the status. -/
theorem resignIsAdd : Obligations.ResignIsAdd :=
  ⟨fun _ => rfl, fun _ _ => ⟨rfl, rfl⟩⟩

/-! ## ADD on a signed input, and its two limitations (R163, R170) -/

/-- R33: the image written from address 0, when `OLEN` holds its length and that is a 64-bit number. -/
theorem State.imageIs_of_writeBytes {t : State} {m : Memory} {q : List Byte}
    (holen : t.block.olen = BitVec.ofNat 64 q.length) (hobuf : t.block.obuf = m.writeBytes 0 q)
    (hq : q.length < 2 ^ 64) : t.ImageIs q := by
  refine ⟨by rw [holen, BitVec.toNat_ofNat, Nat.mod_eq_of_lt hq], fun a ha => ?_⟩
  rw [hobuf, m.read?_writeBytes_zero ha]

theorem State.afterCommand_add_imageIs (s : State) {b : List Byte}
    (hlen : (classify b).2.length + 9 < 2 ^ 64) :
    (s.afterCommand b .add).ImageIs (addOp (classify b)) :=
  State.imageIs_of_writeBytes (m := s.block.obuf) (by rw [addOp_length]; rfl) rfl
    (by rwa [addOp_length])

theorem State.afterCommand_remove_imageIs (s : State) {b : List Byte}
    (hlen : (classify b).2.length < 2 ^ 64) :
    (s.afterCommand b .remove).ImageIs (classify b).2 :=
  State.imageIs_of_writeBytes (m := s.block.obuf) rfl rfl hlen

/-- R162: the status and the image ADD leaves, when the image length does not wrap. -/
theorem State.InputIs.exec_add {s : State} {b : List Byte} (h : s.InputIs b)
    (hlen : (classify b).2.length + 9 < 2 ^ 64) :
    ∃ t, exec .add s = .next t ∧ t.block.st = (classify b).1 ∧
      t.ImageIs (addOp (classify b)) :=
  ⟨_, h.exec_eq .add, s.block.afterClassify_st b, s.afterCommand_add_imageIs hlen⟩

/-- Settles O42: the input classifies as `Signed` with payload `p`, which ADD signs again. -/
theorem addOnSignedInputReturnsIt : Obligations.AddOnSignedInputReturnsIt := by
  intro s p h
  have hlen := h.length_lt
  rw [List.length_append, trailer_length] at hlen
  have hclassify := signThenClassify p
  obtain ⟨t, ht, hst, himage⟩ := h.exec_add (by rwa [hclassify])
  rw [hclassify] at hst himage
  exact ⟨t, ht, himage, hst⟩

/-- R170 (b): ADD signs whole what is not trailer-shaped. -/
theorem State.InputIs.exec_add_of_not_trailerShaped {s : State} {b : List Byte} (h : s.InputIs b)
    (hb : trailerShaped b = false) (hlen : b.length + 9 < 2 ^ 64) :
    ∃ t, exec .add s = .next t ∧ t.block.st = .unsigned ∧ t.ImageIs (b ++ trailer (blockHash b)) := by
  have hclassify := classify_of_not_trailerShaped hb
  obtain ⟨t, ht, hst, himage⟩ := h.exec_add (by rwa [hclassify])
  rw [hclassify] at hst himage
  exact ⟨t, ht, hst, himage⟩

theorem trailerShaped_concat_of_ne (b : List Byte) {x : Byte} (hx : x ≠ 0xFF#8) :
    trailerShaped (b ++ [x]) = false := by
  rw [Bool.eq_false_iff, Ne, trailerShaped_iff, List.getLast?_concat]
  exact fun ⟨_, hlast⟩ => hx (Option.some_inj.mp hlast)

/-- Settles O43: the trailer shape decides how much of the buffer ADD signs, and a last byte other than
the flag has none. -/
theorem addKeepsKnownLimitations : Obligations.AddKeepsKnownLimitations := by
  refine ⟨fun s b h hb => ?_, fun s b h hb hlen => h.exec_add_of_not_trailerShaped hb hlen,
    fun s p y w x hx h hlen =>
      h.exec_add_of_not_trailerShaped (trailerShaped_concat_of_ne _ hx) hlen⟩
  have h9 := length_of_trailerShaped hb
  have hlt := h.length_lt
  have hclassify := classify_of_trailerShaped hb
  obtain ⟨t, ht, -, himage⟩ := h.exec_add (by rw [hclassify, List.length_take]; omega)
  rw [hclassify] at himage
  exact ⟨t, ht, himage⟩

/-! ## Replay (R171) -/

/-- R114 to R117: a run over the same bytes leaves the hidden registers as a run before it did. -/
theorem hasherAfter_again (b : List Byte) (r : Hasher) :
    hasherAfter b (hasherAfter b r) = hasherAfter b r := by
  rw [hasherAfter, hasherAfter]
  split <;> rfl

theorem Block.afterClassify_again (k : Block) (b : List Byte) :
    (k.afterClassify b).afterClassify b = k.afterClassify b := by
  unfold Block.afterClassify
  cases tryDecode b with
  | none => rfl
  | some c => simp [hasherAfter_again]

theorem Block.afterSign_again {k : Block} (hk : k.obuf.wf) (b : List Byte) :
    (k.afterSign b).afterSign b = k.afterSign b := by
  unfold Block.afterSign Block.afterClassify
  cases tryDecode b <;> simp [hasherAfter_again, Memory.writeBytes_again hk]

theorem Block.afterStrip_again {k : Block} (hk : k.obuf.wf) (b : List Byte) :
    (k.afterStrip b).afterStrip b = k.afterStrip b := by
  unfold Block.afterStrip Block.afterClassify
  cases tryDecode b <;> simp [hasherAfter_again, Memory.writeBytes_again hk]

/-- R171: a command on the same input buffer leaves the block as the same command before it did. -/
theorem Block.afterCommand_again {k : Block} (hk : k.obuf.wf) (b : List Byte) (i : Instr) :
    (k.afterCommand b i).afterCommand b i = k.afterCommand b i := by
  cases i with
  | hash => simp [Block.afterCommand, hasherAfter_again]
  | encode => simp [Block.afterCommand, Memory.writeBytes_again hk]
  | tryDecode =>
    unfold Block.afterCommand
    cases tryDecode b <;> rfl
  | classify => exact k.afterClassify_again b
  | add => exact Block.afterSign_again hk b
  | remove => exact Block.afterStrip_again hk b
  | resign => exact Block.afterSign_again hk b

/-- Settles O44: the second command finds the same input buffer. -/
theorem replayKeepsState : Obligations.ReplayKeepsState := fun s b h hwf i =>
  ⟨s.afterCommand b i, (s.afterCommand b i).afterCommand b i, h.exec_eq i,
    (h.afterCommand i).exec_eq i, Block.afterCommand_again hwf b i, rfl⟩

/-! ## Round trips through the commands (R168, R169) -/

/-- R80: a command in a script, on a completely written buffer. -/
theorem State.InputIs.runScript_command {s : State} {b : List Byte} (h : s.InputIs b) {op : Byte}
    {i : Instr} (hop : decode op = .ok i) (es : List HostEvent) :
    runScript ([Script.command op] ++ es) s = runScript es (s.afterCommand b i) := by
  have hscript : (s.setScript es).InputIs b := h
  exact runScript_of_serve ((serve_wrr_command_of_ok _ hop).trans (hscript.exec_eq i))

/-- The state after `FEED q` of the image `q` (R91). -/
def State.feedImage (s : State) (q : List Byte) : State :=
  (s.setResponses (s.responses ++ .okWord (BitVec.ofNat 64 q.length) :: q.map .okByte)).loadInput q

@[simp] theorem State.feedImage_responses (s : State) (q : List Byte) :
    (s.feedImage q).responses = s.responses ++ .okWord (BitVec.ofNat 64 q.length) ::
      q.map .okByte ++ List.replicate (q.length + 1) .ok :=
  State.loadInput_responses _ q

theorem State.feedImage_inputIs {s : State} {q : List Byte} (h : q.length ≤ s.cap.val) :
    (s.feedImage q).InputIs q :=
  State.loadInput_inputIs (s := s.setResponses _) h

/-- R91: `FEED` of the image `q` before any other events, when the buffer can hold it. -/
theorem State.ImageIs.runScript_feed {s : State} {q : List Byte} (h : s.ImageIs q)
    (hq : q.length ≤ s.cap.val) (es : List HostEvent) :
    runScript (Script.feed q ++ es) s = runScript es (s.feedImage q) := by
  rw [Script.feed, List.append_assoc, runScript_dump h]
  exact runScript_load es hq

/-- The state after `LOAD p; ADD; FEED`, which both round trips begin with. -/
def State.signAndFeed (s : State) (p : List Byte) : State :=
  ((s.loadInput p).afterCommand p .add).feedImage (addOp (classify p))

theorem State.signAndFeed_responses (s : State) (p : List Byte) :
    (s.signAndFeed p).responses = s.responses ++ List.replicate (p.length + 2) .ok ++
      .okWord (BitVec.ofNat 64 (addOp (classify p)).length) :: (addOp (classify p)).map .okByte ++
      List.replicate ((addOp (classify p)).length + 1) .ok := by
  rw [State.signAndFeed, State.feedImage_responses, State.afterCommand_responses,
    State.loadInput_responses, List.append_assoc s.responses, ← List.replicate_succ']

theorem State.signAndFeed_inputIs {s : State} {p : List Byte} (hp : p.length + 9 ≤ s.cap.val) :
    (s.signAndFeed p).InputIs (addOp (classify p)) := by
  have hle := classify_payload_length_le p
  refine State.feedImage_inputIs ?_
  rw [addOp_length]
  exact (Nat.add_le_add_right hle 9).trans hp

theorem runScript_load_add_feed {s : State} {p : List Byte} (hp : p.length + 9 ≤ s.cap.val)
    (es : List HostEvent) :
    runScript (Script.load p ++ ([Script.command 0x05#8] ++
      (Script.feed (addOp (classify p)) ++ es))) s = runScript es (s.signAndFeed p) := by
  have hle := classify_payload_length_le p
  have hcap := s.cap.isLt
  have hload : p.length ≤ s.cap.val := by omega
  have hfeed : (addOp (classify p)).length ≤ s.cap.val := by
    rw [addOp_length]
    omega
  have himage := (s.loadInput p).afterCommand_add_imageIs (b := p) (by omega)
  rw [runScript_load _ hload,
    (State.loadInput_inputIs hload).runScript_command (op := 0x05#8) (decode_encode .add),
    himage.runScript_feed hfeed]
  rfl

/-- R141, R144: the payload view after a classification of `b`. -/
theorem State.InputIs.payloadIs_of_classify {s : State} {b : List Byte} (h : s.InputIs b) :
    (s.afterCommand b .classify).PayloadIs (classify b).2 := by
  have hle := classify_payload_length_le b
  have hlt := h.length_lt
  refine ⟨?_, fun a ha => ?_⟩
  · show (s.block.afterClassify b).plen.toNat = _
    rw [Block.afterClassify_plen, BitVec.toNat_ofNat, Nat.mod_eq_of_lt (by omega)]
  · show (s.block.afterClassify b).ibuf.read? a = _
    rw [Block.afterClassify_ibuf, h.2 a (by omega), classify_payload_eq_take,
      List.getElem?_take_of_lt ha]

/-- Settles O53: the image fed back is `Signed`, with the payload that was signed (R148). -/
theorem roundTripThroughCommands : Obligations.RoundTripThroughCommands := by
  intro s p hp
  have hinput := State.signAndFeed_inputIs hp
  have hclassify : classify (addOp (classify p)) = (.signed, (classify p).2) :=
    signThenClassify (classify p).2
  have hpayload := hinput.payloadIs_of_classify
  rw [hclassify] at hpayload
  refine ⟨((s.signAndFeed p).afterCommand (addOp (classify p)) .classify).setScript [], ?_, ?_,
    hpayload, fun hshape => ?_, ?_⟩
  · simp only [List.append_assoc]
    rw [runScript_load_add_feed hp, ← List.append_nil [Script.command 0x04#8],
      hinput.runScript_command (op := 0x04#8) (decode_encode .classify), runScript_nil]
  · show ((s.signAndFeed p).block.afterClassify _).st = _
    rw [Block.afterClassify_st, hclassify]
  · rw [classify_of_not_trailerShaped hshape] at hpayload ⊢
    exact hpayload
  · rw [State.setScript_responses, State.afterCommand_responses, State.signAndFeed_responses,
      List.append_assoc, ← List.replicate_succ']

/-- Settles O54: REMOVE finds the image that ADD signed, and CLASSIFY the payload that REMOVE left. -/
theorem removeUndoesAdd : Obligations.RemoveUndoesAdd := by
  intro s p hp
  have hle := classify_payload_length_le p
  have hcap := s.cap.isLt
  have hinput := State.signAndFeed_inputIs hp
  have hpayload : (classify (addOp (classify p))).2 = (classify p).2 := by
    rw [addOp, signThenClassify]
  have hfeed : (classify p).2.length ≤ s.cap.val := by omega
  have himage := (s.signAndFeed p).afterCommand_remove_imageIs (b := addOp (classify p))
    (by rw [hpayload]; omega)
  rw [hpayload] at himage
  have hstripped : (((s.signAndFeed p).afterCommand (addOp (classify p)) .remove).feedImage
      (classify p).2).InputIs (classify p).2 := State.feedImage_inputIs hfeed
  obtain ⟨hunsigned, hwhole, -⟩ := reclassifyingPayload p
  refine ⟨(State.afterCommand _ (classify p).2 .classify).setScript [], ?_,
    hstripped.afterCommand .classify, ?_, fun hshape => ?_, ?_⟩
  · simp only [List.append_assoc]
    rw [runScript_load_add_feed hp, hinput.runScript_command (op := 0x06#8) (decode_encode .remove),
      himage.runScript_feed hfeed, ← List.append_nil [Script.command 0x04#8],
      hstripped.runScript_command (op := 0x04#8) (decode_encode .classify), runScript_nil]
  · rw [← hunsigned, ← Block.afterClassify_st]
    rfl
  · have hview := hstripped.payloadIs_of_classify
    rwa [hwhole hshape] at hview
  · rw [State.setScript_responses, State.afterCommand_responses, State.feedImage_responses,
      State.afterCommand_responses, State.signAndFeed_responses]
    simp [List.replicate_succ']

end Sys2Proof.Machine

/-! SUPPORT. The statements of spec/60_exceptions.md: the four error codes (R181), what an error leaves
alone (R182), and the commands, which raise none (R184). The table of R181 is a relation of its own; each
statement about a response follows from what that relation says of the event. -/

namespace Sys2Proof.Machine

/-- Settles O14: a command responds `OK` and leaves the script and `CAP` alone. -/
theorem commandsNeverFail : Obligations.CommandsNeverFail := by
  intro i s
  obtain ⟨hcap, hscript, hresponses, -⟩ := exec_environment (exec_eq i s)
  exact ⟨_, exec_eq i s, hresponses, hscript, hcap⟩

/-! ## Rules of serving that the table needs -/

/-- R28, R59: a length above `CAP` is not written. -/
theorem serve_wrr_length_of_gt (s : State) {v : Word} (hv : s.cap.val < v.toNat) :
    serve (.wrr 2 v) s = .next (s.respondErr .length) := by
  show Host.Outcome.next (s.writeLength v) = _
  rw [State.writeLength, if_pos hv]

/-- R61: in bounds, `RDI` answers a byte, whether or not `IBUF` holds a value there. -/
theorem serve_rdi_of_lt (s : State) {a : Nat} (ha : a < s.block.ilen.toNat) :
    serve (.rdi a) s = .next ((s.endReads (s.block.ibuf.read? a).isSome).respond
      (.okByte (s.inputByte .hostInput a))) := by
  rw [serve, State.readInput, if_neg (Nat.not_le.mpr ha)]

/-- R62: in bounds, `RDO` answers a byte, whether or not `OBUF` holds a value there. -/
theorem serve_rdo_of_lt (s : State) {a : Nat} (ha : a < s.block.olen.toNat) :
    serve (.rdo a) s = .next ((s.endReads (s.block.obuf.read? a).isSome).respond
      (.okByte (s.outputByte a))) := by
  rw [serve, State.readOutput, if_neg (Nat.not_le.mpr ha)]

/-! ## The table of causes -/

/-- R181: the table of causes. `s.Raises e c`: the row of `c` lists the event `e` in state `s`. -/
inductive State.Raises (s : State) : HostEvent → ErrorCode → Prop
  | reservedOpcode {op : Byte} (h : op.toNat = 0 ∨ 8 ≤ op.toNat) : Raises s (.wrr 0 op) .illegalCmd
  | lengthOverCap {v : Word} (h : s.cap.val < v.toNat) : Raises s (.wrr 2 v) .length
  | readAbsent {k : Nat} (h : 8 ≤ k) : Raises s (.rdr k) .address
  | writeAbsent {k : Nat} {v : BitVec (regWidth k)} (h : 8 ≤ k) : Raises s (.wrr k v) .address
  | inputWriteOverCap {a : Nat} {v : Byte} (h : s.cap.val ≤ a) : Raises s (.wri a v) .address
  | inputReadOverLength {a : Nat} (h : s.block.ilen.toNat ≤ a) : Raises s (.rdi a) .address
  | outputReadOverLength {a : Nat} (h : s.block.olen.toNat ≤ a) : Raises s (.rdo a) .address
  | readCommand : Raises s (.rdr 0) .access
  | writeReadOnly {k : Nat} {v : BitVec (regWidth k)} (h : k = 1 ∨ k = 3 ∨ k = 5 ∨ k = 6 ∨ k = 7) :
    Raises s (.wrr k v) .access

namespace State.Raises

/-- R181, R182: an event the table lists is answered by its error, and nothing else happens. -/
theorem serve_eq {s : State} {e : HostEvent} {c : ErrorCode} (h : s.Raises e c) :
    serve e s = .next (s.respondErr c) := by
  cases h with
  | reservedOpcode h => exact serve_wrr_command_of_error s ((decode_error_iff _).mpr h)
  | lengthOverCap h => exact serve_wrr_length_of_gt s h
  | readAbsent h => exact serve_rdr_absent s h
  | writeAbsent h => exact serve_wrr_absent s h _
  | inputWriteOverCap h => exact serve_wri_of_le s h _
  | inputReadOverLength h => exact serve_rdi_of_le s h
  | outputReadOverLength h => exact serve_rdo_of_le s h
  | readCommand => rfl
  | writeReadOnly h => exact serve_wrr_readOnly s h _

theorem illegalCmd_iff (s : State) (e : HostEvent) :
    s.Raises e .illegalCmd ↔ ∃ op : Byte, e = .wrr 0 op ∧ (op.toNat = 0 ∨ 8 ≤ op.toNat) := by
  constructor
  · intro h
    cases h with
    | reservedOpcode h => exact ⟨_, rfl, h⟩
  · rintro ⟨op, rfl, h⟩
    exact .reservedOpcode h

theorem length_iff (s : State) (e : HostEvent) :
    s.Raises e .length ↔ ∃ v : Word, e = .wrr 2 v ∧ s.cap.val < v.toNat := by
  constructor
  · intro h
    cases h with
    | lengthOverCap h => exact ⟨_, rfl, h⟩
  · rintro ⟨v, rfl, h⟩
    exact .lengthOverCap h

theorem address_iff (s : State) (e : HostEvent) :
    s.Raises e .address ↔
      (∃ k, e = .rdr k ∧ 8 ≤ k) ∨ (∃ k v, e = .wrr k v ∧ 8 ≤ k) ∨
      (∃ a v, e = .wri a v ∧ s.cap.val ≤ a) ∨ (∃ a, e = .rdi a ∧ s.block.ilen.toNat ≤ a) ∨
      (∃ a, e = .rdo a ∧ s.block.olen.toNat ≤ a) := by
  constructor
  · intro h
    cases h with
    | readAbsent h => exact .inl ⟨_, rfl, h⟩
    | writeAbsent h => exact .inr (.inl ⟨_, _, rfl, h⟩)
    | inputWriteOverCap h => exact .inr (.inr (.inl ⟨_, _, rfl, h⟩))
    | inputReadOverLength h => exact .inr (.inr (.inr (.inl ⟨_, rfl, h⟩)))
    | outputReadOverLength h => exact .inr (.inr (.inr (.inr ⟨_, rfl, h⟩)))
  · rintro (⟨k, rfl, h⟩ | ⟨k, v, rfl, h⟩ | ⟨a, v, rfl, h⟩ | ⟨a, rfl, h⟩ | ⟨a, rfl, h⟩)
    · exact .readAbsent h
    · exact .writeAbsent h
    · exact .inputWriteOverCap h
    · exact .inputReadOverLength h
    · exact .outputReadOverLength h

theorem access_iff (s : State) (e : HostEvent) :
    s.Raises e .access ↔
      e = .rdr 0 ∨ ∃ k v, e = .wrr k v ∧ (k = 1 ∨ k = 3 ∨ k = 5 ∨ k = 6 ∨ k = 7) := by
  constructor
  · intro h
    cases h with
    | readCommand => exact .inl rfl
    | writeReadOnly h => exact .inr ⟨_, _, rfl, h⟩
  · rintro (rfl | ⟨k, v, rfl, h⟩)
    · exact .readCommand
    · exact .writeReadOnly h

end State.Raises

/-! ## The transactions the table does not list -/

/-- R181: serving `e` ends with one response, and it is no error. -/
def State.Succeeds (s : State) (e : HostEvent) : Prop :=
  ∃ t r, serve e s = .next t ∧ t.responses = s.responses ++ [r] ∧ ∀ c, r ≠ .err c

/-- R181: the table is complete; a transaction that no row of it lists responds with no error. -/
theorem State.raises_or_succeeds (s : State) {e : HostEvent} (he : e ≠ .reset) :
    (∃ c, s.Raises e c) ∨ s.Succeeds e := by
  cases e with
  | rdr k =>
    match k with
    | 0 => exact .inl ⟨_, .readCommand⟩
    | 1 | 2 | 3 | 4 | 5 | 6 | 7 => exact .inr ⟨_, _, rfl, rfl, nofun⟩
    | k + 8 => exact .inl ⟨_, .readAbsent (Nat.le_add_left 8 k)⟩
  | wrr k v =>
    match k, v with
    | 0, op =>
      cases hdecode : decode op with
      | ok i =>
        obtain ⟨t, ht, hresponses⟩ := exec_responds_ok i s
        exact .inr ⟨t, .ok, (serve_wrr_command_of_ok s hdecode).trans ht, hresponses, nofun⟩
      | error x =>
        obtain rfl := decode_error_eq hdecode
        exact .inl ⟨_, .reservedOpcode ((decode_error_iff op).mp hdecode)⟩
    | 1, _ | 3, _ | 5, _ | 6, _ | 7, _ => exact .inl ⟨_, .writeReadOnly (by decide)⟩
    | 2, v =>
      rcases Nat.lt_or_ge s.cap.val (BitVec.toNat v) with hv | hv
      · exact .inl ⟨_, .lengthOverCap hv⟩
      · exact .inr ⟨_, .ok, serve_wrr_length_of_le s hv, rfl, nofun⟩
    | 4, _ => exact .inr ⟨_, .ok, rfl, rfl, nofun⟩
    | k + 8, _ => exact .inl ⟨_, .writeAbsent (Nat.le_add_left 8 k)⟩
  | wri a v =>
    rcases Nat.lt_or_ge a s.cap.val with ha | ha
    · exact .inr ⟨_, .ok, serve_wri_of_lt s ha v, rfl, nofun⟩
    · exact .inl ⟨_, .inputWriteOverCap ha⟩
  | rdi a =>
    rcases Nat.lt_or_ge a s.block.ilen.toNat with ha | ha
    · exact .inr ⟨_, .okByte (s.inputByte .hostInput a), serve_rdi_of_lt s ha, by simp, nofun⟩
    · exact .inl ⟨_, .inputReadOverLength ha⟩
  | rdo a =>
    rcases Nat.lt_or_ge a s.block.olen.toNat with ha | ha
    · exact .inr ⟨_, .okByte (s.outputByte a), serve_rdo_of_lt s ha, by simp, nofun⟩
    · exact .inl ⟨_, .outputReadOverLength ha⟩
  | reset => exact absurd rfl he

/-! ## Responses -/

/-- R181: every transaction has one response. -/
theorem serve_responds {e : HostEvent} {s t : State} (he : e ≠ .reset) (h : serve e s = .next t) :
    ∃ r, t.responses = s.responses ++ [r] := by
  rcases s.raises_or_succeeds he with ⟨c, hc⟩ | ⟨u, r, hu, hr, -⟩
  · obtain rfl := Host.Outcome.next.inj (hc.serve_eq.symm.trans h)
    exact ⟨_, rfl⟩
  · obtain rfl := Host.Outcome.next.inj (hu.symm.trans h)
    exact ⟨r, hr⟩

/-- R181: an event is answered with an error exactly when the table lists it there. -/
theorem serve_err_iff (s : State) (e : HostEvent) (c : ErrorCode) :
    (∃ t, serve e s = .next t ∧ t.responses = s.responses ++ [.err c]) ↔ s.Raises e c := by
  constructor
  · rintro ⟨t, ht, hresponses⟩
    by_cases he : e = .reset
    · subst he
      obtain rfl := Host.Outcome.next.inj ht
      simp [State.resetBlock] at hresponses
    rcases s.raises_or_succeeds he with ⟨c', hc'⟩ | ⟨u, r, hu, hr, hne⟩
    · obtain rfl := Host.Outcome.next.inj (hc'.serve_eq.symm.trans ht)
      obtain rfl : c' = c := by simpa using hresponses
      exact hc'
    · obtain rfl := Host.Outcome.next.inj (hu.symm.trans ht)
      exact absurd (by simpa using hr.symm.trans hresponses) (hne c)
  · exact fun h => ⟨_, h.serve_eq, rfl⟩

/-- Settles O11: the table lists the event, and a listed event is answered by its error alone. -/
theorem failedTransactionChangesNothing : Obligations.FailedTransactionChangesNothing := by
  intro s rest e t c ht hresponses
  rw [step_setScript_cons] at ht
  have hraises : (s.setScript rest).Raises e c := (serve_err_iff _ e c).mp ⟨t, ht, hresponses⟩
  exact Host.Outcome.next.inj (ht.symm.trans hraises.serve_eq)

/-- Settles O12: each clause is one code's rows of the table. -/
theorem errorCodesHaveTheirCauses : Obligations.ErrorCodesHaveTheirCauses := by
  refine ⟨rfl, rfl, rfl, rfl, fun s rest e => ?_⟩
  simp only [step_setScript_cons]
  have hraises := serve_err_iff (s.setScript rest) e
  exact ⟨(hraises .illegalCmd).trans (State.Raises.illegalCmd_iff _ e),
    (hraises .length).trans (State.Raises.length_iff _ e),
    (hraises .address).trans (State.Raises.address_iff _ e),
    (hraises .access).trans (State.Raises.access_iff _ e)⟩

/-- Settles O13: an event is always served, and the reset input changes the block alone. -/
theorem everyTransactionRespondsOnce : Obligations.EveryTransactionRespondsOnce := by
  intro s rest e
  rw [step_setScript_cons]
  obtain ⟨t, ht⟩ := serve_next e (s.setScript rest)
  obtain ⟨hscript, hcap⟩ := serve_environment ht
  refine ⟨t, ht, hscript, hcap, fun he => ?_, fun he => serve_responds (s := s.setScript rest) he ht⟩
  subst he
  obtain rfl := Host.Outcome.next.inj ht
  rfl

end Sys2Proof.Machine

/-! SUPPORT. The statements of spec/70_reset_and_hazards.md: the reset input (R200, R202), the commands right
after reset (R201), and the commands on a buffer with bytes that hold no value (R205, U1). There a command
does what its rule says of the sequence its own reads gave, which has every byte that was written. -/

namespace Sys2Proof.Machine

/-! ## The reset input (R200, R202) -/

theorem serve_reset (s : State) : serve .reset s = .next s.resetBlock := rfl

/-- R61: an empty input buffer answers no address. -/
theorem step_rdi_of_ilen_eq_zero {t : State} (h : t.block.ilen = 0) (a : Nat)
    (more : List HostEvent) :
    step (t.setScript (.rdi a :: more)) = .next ((t.setScript more).respondErr .address) := by
  rw [step_setScript_cons, serve_rdi_of_le _ (by simp [h])]

/-- R62: an empty image answers no address. -/
theorem step_rdo_of_olen_eq_zero {t : State} (h : t.block.olen = 0) (a : Nat)
    (more : List HostEvent) :
    step (t.setScript (.rdo a :: more)) = .next ((t.setScript more).respondErr .address) := by
  rw [step_setScript_cons, serve_rdo_of_le _ (by simp [h])]

/-- Settles O49: the block is the reset block, whose two lengths leave no address to read. -/
theorem resetInputClearsRegisters : Obligations.ResetInputClearsRegisters := fun s rest =>
  ⟨(s.setScript rest).resetBlock, (step_setScript_cons s .reset rest).trans (serve_reset _),
    rfl, rfl, rfl, resetValues.1, rfl, rfl, rfl, rfl, rfl, rfl, fun a more =>
      ⟨step_rdi_of_ilen_eq_zero rfl a more, step_rdo_of_olen_eq_zero rfl a more⟩⟩

/-! ## The commands right after reset (R201) -/

theorem State.inputIs_nil_of_block_reset {s : State} (h : s.block = Block.reset) : s.InputIs [] :=
  ⟨by rw [h]; rfl, fun _ ha => absurd ha (Nat.not_lt_zero _)⟩

/-- R122: the image ENCODE leaves. -/
theorem State.afterCommand_encode_imageIs (s : State) (b : List Byte) :
    (s.afterCommand b .encode).ImageIs (trailer s.block.hin) :=
  State.imageIs_of_writeBytes (m := s.block.obuf) (by rw [trailer_length]; rfl) rfl (by simp)

/-- R201: the trailer of the hash 0, which is `HIN` after reset and the hash of the empty sequence. -/
theorem trailer_zero : trailer 0 = List.replicate 8 0x00#8 ++ [0xFF#8] := by decide

/-- Settles O50: the buffer is the empty sequence, on which each command's effect is known. -/
theorem commandsRightAfterReset : Obligations.CommandsRightAfterReset := by
  intro s hreset
  have h := State.inputIs_nil_of_block_reset hreset
  have hadd : (s.afterCommand [] .add).ImageIs (List.replicate 8 0x00#8 ++ [0xFF#8]) := by
    rw [← trailer_zero]
    exact s.afterCommand_add_imageIs (by decide)
  have hencode : (s.afterCommand [] .encode).ImageIs (List.replicate 8 0x00#8 ++ [0xFF#8]) := by
    have himage := s.afterCommand_encode_imageIs []
    rwa [hreset, show Block.reset.hin = 0 from rfl, trailer_zero] at himage
  exact ⟨⟨_, h.exec_eq .hash, rfl⟩, ⟨_, h.exec_eq .tryDecode, rfl⟩,
    ⟨_, h.exec_eq .classify, rfl, rfl⟩, ⟨_, h.exec_eq .add, hadd⟩, ⟨_, h.exec_eq .resign, hadd⟩,
    ⟨_, h.exec_eq .remove, s.afterCommand_remove_imageIs (by decide)⟩,
    ⟨_, h.exec_eq .encode, hencode⟩⟩

/-! ## Reads of bytes that may hold no value (U1) -/

theorem State.inputByte_of_held {s : State} {a : Nat} {v : Byte}
    (hv : s.block.ibuf.read? a = some v) (u : Config.Access) : s.inputByte u a = v := by
  rw [State.inputByte, State.valueOr, hv, Option.getD_some]

theorem State.inputBytes_getElem? (s : State) (u : Config.Access) {n a : Nat} (ha : a < n) :
    (s.inputBytes u n)[a]? = some (s.inputByte u a) := by
  rw [State.inputBytes, List.getElem?_map, List.getElem?_range ha, Option.map_some]

/-- The access by which a classification of `n` bytes with a trailer reads address `a` (R55): the flag,
the hash field before it, and the payload. -/
def decodeAccess (n a : Nat) : Config.Access :=
  if a + 9 < n then .block else if a + 1 < n then .trailer else .flag

/-- The sequence a classification sees in the input buffer: what its own read of each address gives. -/
def State.decodeView (s : State) : List Byte :=
  (List.range s.block.ilen.toNat).map fun a => s.inputByte (decodeAccess s.block.ilen.toNat a) a

@[simp] theorem State.decodeView_length (s : State) :
    s.decodeView.length = s.block.ilen.toNat := by
  rw [State.decodeView, List.length_map, List.length_range]

theorem State.decodeView_getElem? (s : State) {a : Nat} (ha : a < s.block.ilen.toNat) :
    s.decodeView[a]? = some (s.inputByte (decodeAccess s.block.ilen.toNat a) a) := by
  rw [State.decodeView, List.getElem?_map, List.getElem?_range ha, Option.map_some]

theorem State.decodeView_getD (s : State) {a : Nat} (ha : a < s.block.ilen.toNat) :
    s.decodeView.getD a 0#8 = s.inputByte (decodeAccess s.block.ilen.toNat a) a := by
  rw [List.getD_eq_getElem?_getD, s.decodeView_getElem? ha, Option.getD_some]

theorem State.decodeView_mayBe (s : State) : s.InputMayBe s.decodeView := by
  refine ⟨s.decodeView_length.symm, fun a v ha hv => ?_⟩
  rw [s.decodeView_getElem? (by rwa [s.decodeView_length] at ha), State.inputByte_of_held hv]

/-- The payload of a recognised trailer is read by the hasher alone. -/
theorem State.decodeView_take (s : State) {n : Nat} (hn : n + 9 = s.block.ilen.toNat) :
    s.decodeView.take n = s.inputBytes .block n := by
  rw [State.decodeView, ← List.map_take, List.take_range, Nat.min_eq_left (by omega),
    State.inputBytes]
  refine List.map_congr_left fun a ha => ?_
  have han : a < n := List.mem_range.mp ha
  rw [decodeAccess, if_pos (by omega)]

/-- R124: the decode of any input buffer is that of the sequence seen. -/
theorem State.decodeTrailer_eq_decodeView (s : State) :
    s.decodeTrailer = (tryDecode s.decodeView).map fun c => (c.1, BitVec.ofNat 64 c.2) := by
  refine State.decodeTrailer_eq s.decodeView_length.symm (fun h9 => ?_) fun h9 j hj => ?_ <;>
    rw [s.decodeView_length] at h9 ⊢
  · rw [s.decodeView_getD (by omega), decodeAccess, if_neg (by omega), if_neg (by omega),
      State.flagByte]
  · rw [s.decodeView_getD (by omega), decodeAccess, if_neg (by omega), if_pos (by omega)]

/-- R125: TRYDECODE latches the trailer of the sequence seen. -/
theorem State.latchTrailer_block (s : State) :
    s.latchTrailer.block = s.block.afterCommand s.decodeView .tryDecode := by
  rw [State.latchTrailer, s.decodeTrailer_eq_decodeView, Block.afterCommand]
  cases tryDecode s.decodeView <;> rfl

/-- R143: the classification phase classifies the sequence seen. -/
theorem State.classifyInput_block (s : State) :
    s.classifyInput.block = s.block.afterClassify s.decodeView := by
  rw [State.classifyInput, s.decodeTrailer_eq_decodeView, Block.afterClassify, classify]
  cases hd : tryDecode s.decodeView with
  | none =>
    simp only [Option.map_none, s.decodeView_length, BitVec.ofNat_toNat, BitVec.setWidth_eq]
    rfl
  | some c =>
    obtain ⟨w, n⟩ := c
    have hn : n + 9 = s.block.ilen.toNat := s.decodeView_length ▸ tryDecode_some hd
    have hlt : n < 2 ^ 64 := by have := s.block.ilen.isLt; omega
    simp only [Option.map_some, BitVec.toNat_ofNat, Nat.mod_eq_of_lt hlt, State.hashPrefix_eq s hlt,
      s.decodeView_take hn]
    rfl

/-- Settles O24: HASH runs over the bytes its block reads give, the other two over the sequence a
classification sees. -/
theorem unwrittenBytesAreFreeInRegisterCommands :
    Obligations.UnwrittenBytesAreFreeInRegisterCommands := by
  refine fun s => ⟨⟨s.inputBytes .block s.block.ilen.toNat, _, s.inputBytes_mayBe .block,
    exec_eq .hash s, ?_⟩, ⟨s.decodeView, _, s.decodeView_mayBe, exec_eq .tryDecode s, ?_⟩,
    ⟨s.decodeView, _, s.decodeView_mayBe, exec_eq .classify s, ?_⟩⟩ <;>
    rw [State.respondOk_block, State.endReads_block, State.effect]
  · rw [State.hashPrefix_eq s s.block.ilen.isLt]
    rfl
  · exact s.latchTrailer_block
  · exact s.classifyInput_block

/-! ## The images of ADD, REMOVE and RESIGN on any buffer -/

/-- The number of payload bytes a classification finds (R24). -/
def State.payloadLength (s : State) : Nat := s.classifyInput.block.plen.toNat

/-- R24: `PLEN` after a classification that recognises a trailer. -/
theorem State.classifyInput_of_tv {s : State} (h : s.classifyInput.block.tv = true) :
    9 ≤ s.block.ilen.toNat ∧ s.classifyInput.block.plen = s.block.ilen - 9 ∧
      s.classifyInput.block.hash = blockHash (s.inputBytes .block s.payloadLength) := by
  unfold State.payloadLength
  cases hd : s.decodeTrailer with
  | none =>
    rw [State.classifyInput_of_absent hd] at h
    cases h
  | some c =>
    obtain ⟨w, n⟩ := c
    have hlen := State.decodeTrailer_length hd
    rw [State.classifyInput, hd]
    refine ⟨by omega, ?_, ?_⟩
    · show n = s.block.ilen - 9
      bv_omega
    · show (s.hashPrefix n.toNat).block.hash = _
      rw [State.hashPrefix_eq s n.isLt]
      rfl

theorem State.classifyInput_plen_of_not_tv {s : State} (h : s.classifyInput.block.tv = false) :
    s.classifyInput.block.plen = s.block.ilen := by
  cases hd : s.decodeTrailer with
  | none => rw [State.classifyInput_of_absent hd]; rfl
  | some c =>
    rw [State.classifyInput, hd] at h
    cases h

/-- A read depends on the input buffer and the draw counter alone. -/
theorem State.inputBytes_congr {s t : State} (hibuf : t.block.ibuf = s.block.ibuf)
    (hdraws : t.draws = s.draws) (u : Config.Access) (n : Nat) :
    t.inputBytes u n = s.inputBytes u n := by
  refine List.map_congr_left fun a _ => ?_
  rw [State.inputByte, State.inputByte, State.valueOr, State.valueOr, hibuf, hdraws]

/-- R162: whichever phase computes it, `HASH` is the hash of the payload as the block reads see it. -/
theorem State.signInput_hash (s : State) :
    s.signInput.block.hash = blockHash (s.inputBytes .block s.payloadLength) := by
  rw [State.signInput, State.signPayload_hash, State.hashIfAbsent]
  by_cases htv : s.classifyInput.block.tv = true
  · obtain ⟨-, -, hhash⟩ := s.classifyInput_of_tv htv
    rw [if_pos htv, hhash]
  · rw [if_neg htv, State.hashPrefix_eq _ (BitVec.isLt _),
      State.inputBytes_congr s.classifyInput_ibuf s.classifyInput_draws]
    rfl

/-- R162: with a trailer, phase 2 leaves the `HASH` of phase 1. -/
theorem State.signInput_hash_of_tv {s : State} (h : s.classifyInput.block.tv = true) :
    s.signInput.block.hash = s.classifyInput.block.hash := by
  obtain ⟨-, -, hhash⟩ := s.classifyInput_of_tv h
  rw [s.signInput_hash, hhash]

/-- The image of ADD, REMOVE or RESIGN: the payload as the copy reads it, and the trailer of `HASH`
unless it is REMOVE's (R162, R164, R166). -/
def State.imageBytes (s : State) (i : Instr) : List Byte :=
  s.inputBytes .copy s.payloadLength ++
    if i = .remove then [] else trailer s.signInput.block.hash

theorem State.imageBytes_getElem?_payload (s : State) (i : Instr) {a : Nat}
    (ha : a < s.payloadLength) : (s.imageBytes i)[a]? = some (s.inputByte .copy a) := by
  rw [State.imageBytes, List.getElem?_append_left (by rwa [State.inputBytes_length]),
    s.inputBytes_getElem? _ ha]

theorem State.imageBytes_getElem?_trailer (s : State) {i : Instr} (hi : i ≠ .remove) (j : Nat) :
    (s.imageBytes i)[s.payloadLength + j]? = (trailer s.signInput.block.hash)[j]? := by
  rw [State.imageBytes, if_neg hi, List.getElem?_append_right (by simp), State.inputBytes_length,
    Nat.add_sub_cancel_left]

theorem State.imageBytes_length (s : State) (i : Instr) :
    (s.imageBytes i).length = s.payloadLength + if i = .remove then 0 else 9 := by
  rw [State.imageBytes, List.length_append, State.inputBytes_length]
  split <;> simp

section

variable {i : Instr} (hi : i = .add ∨ i = .remove ∨ i = .resign)
include hi

/-- R36: the image commands write `HASH`, the hidden registers and the image beside what the
classification phase writes. -/
theorem effect_image_frame (s : State) :
    (s.effect i).block =
      { s.classifyInput.block with
        hash := (s.effect i).block.hash
        hasher := (s.effect i).block.hasher
        olen := (s.effect i).block.olen
        obuf := (s.effect i).block.obuf } := by
  rcases hi with rfl | rfl | rfl <;>
    apply Block.eq_of_fields <;> simp [State.effect, State.signInput]

theorem effect_image_hash (s : State) :
    (s.effect i).block.hash =
      if i = .remove then s.classifyInput.block.hash else s.signInput.block.hash := by
  rcases hi with rfl | rfl | rfl <;> simp [State.effect]

theorem effect_image_olen (s : State) :
    (s.effect i).block.olen =
      if i = .remove then s.classifyInput.block.plen else s.classifyInput.block.plen + 9 := by
  rcases hi with rfl | rfl | rfl <;>
    simp [State.effect, State.signInput, State.signPayload, State.stripPayload, State.setImageLength]

theorem effect_image_obuf (s : State) :
    (s.effect i).block.obuf = s.block.obuf.writeBytes 0 (s.imageBytes i) := by
  have hsign : s.signInput.block.obuf = s.block.obuf.writeBytes 0
      (s.inputBytes .copy s.payloadLength ++ trailer s.signInput.block.hash) := by
    conv_lhs => rw [State.signInput, State.signPayload_eq, State.storeImage_obuf]
    rw [State.inputBytes_congr (s := s) (by simp) (by simp), State.hashIfAbsent_plen,
      State.hashIfAbsent_obuf, State.classifyInput_obuf, State.signInput, State.signPayload_hash]
    rfl
  have hstrip : s.classifyInput.stripPayload.block.obuf = s.block.obuf.writeBytes 0
      (s.inputBytes .copy s.payloadLength) := by
    rw [State.stripPayload_eq, State.storeImage_obuf,
      State.inputBytes_congr s.classifyInput_ibuf s.classifyInput_draws, State.classifyInput_obuf]
    rfl
  rcases hi with rfl | rfl | rfl
  · exact hsign
  · rw [State.imageBytes, if_pos rfl, List.append_nil]
    exact hstrip
  · exact hsign

/-- R33: the image as `OBUF` reads. -/
theorem effect_image_read? (s : State) {a : Nat} (ha : a < (s.imageBytes i).length) :
    (s.effect i).block.obuf.read? a = (s.imageBytes i)[a]? := by
  rw [effect_image_obuf hi, Memory.read?_writeBytes_zero _ ha]

end

/-- Settles O25: the registers are those of the classification phase on the sequence it sees, and the
image is the payload as the copy reads it, with the trailer of `HASH` behind it. -/
theorem unwrittenBytesAreFreeInImages : Obligations.UnwrittenBytesAreFreeInImages := by
  intro s i hi
  have hframe := effect_image_frame hi s
  have htv : (s.effect i).block.tv = s.classifyInput.block.tv := by rw [hframe]
  have hplen : (s.effect i).block.plen = s.classifyInput.block.plen := by rw [hframe]
  have hlen : s.classifyInput.block.plen.toNat = s.payloadLength := rfl
  have hread : ∀ a, a < s.payloadLength →
      (s.effect i).block.obuf.read? a = some (s.inputByte .copy a) := fun a ha => by
    rw [effect_image_read? hi s (by rw [s.imageBytes_length]; omega),
      s.imageBytes_getElem?_payload i ha]
  refine ⟨s.decodeView, _, s.decodeView_mayBe, exec_eq i s, ?_⟩
  rw [State.respondOk_block, State.endReads_block, ← s.classifyInput_block, htv, hplen, hlen]
  refine ⟨hframe, fun h => ?_, State.classifyInput_plen_of_not_tv, effect_image_olen hi s,
    fun a v ha hv => ?_, fun a ha => ?_, fun hne => ⟨?_, fun j hj => ?_⟩⟩
  · obtain ⟨h9, hminus, -⟩ := s.classifyInput_of_tv h
    refine ⟨h9, hminus, ?_⟩
    rw [effect_image_hash hi, s.signInput_hash_of_tv h, ite_self]
  · rw [hread a ha, State.inputByte_of_held hv]
  · rw [hread a ha, Option.isSome_some]
  · rw [effect_image_hash hi, if_neg hne]
    refine ⟨s.inputBytes .block s.payloadLength, s.inputBytes_length _ _, fun a v ha hv => ?_,
      s.signInput_hash⟩
    rw [s.inputBytes_getElem? _ (by simpa using ha), State.inputByte_of_held hv]
  · rw [effect_image_hash hi, if_neg hne,
      effect_image_read? hi s (by rw [s.imageBytes_length, if_neg hne]; omega),
      s.imageBytes_getElem?_trailer hne]

end Sys2Proof.Machine
